-- ==== Sys2Proof/Word.lean ====
section
/-! DEFINITION. The two word types of the block (00_scope.md R13): every value is an unsigned integer of a stated
width. Cursors and counts are natural numbers; only bytes and 16-bit words are bit vectors. -/

namespace Sys2Proof

/-- A byte, 8 bits (R12, R13). -/
abbrev Byte := BitVec 8

/-- A word16, 16 bits (R13): the CRC accumulator, seeds, and the counter `UNMATCHED`. -/
abbrev Word16 := BitVec 16

end Sys2Proof
end

