-- ==== Sys2Proof/Machine/Flags.lean ====
section
/-! DEFINITION. The block has no condition flags (10_state.md R35): what another machine keeps in flags, this one
returns as code bytes of a response. Here stand those codes (30_encoding.md R71, 43_framer.md R151, R164,
60_exceptions.md R201) and the fixed constants of 00_scope.md R11. -/

namespace Sys2Proof.Machine

/-- Status OK (R71, R201). -/
def statusOk : Byte := 0x00#8

/-- Status ILLEGAL, for a reserved opcode only (R72, R201). -/
def statusIllegal : Byte := 0xFF#8

/-- What an empty read returns (R115, R118, R142). -/
def sentinel : Byte := 0x00#8

/-- `CRC_SEED` (R11). -/
def crcSeed : Word16 := 0xFFFF#16

/-- `KEY_EVENT_CMD` (R11). -/
def keyEventCmd : Byte := 0x80#8

/-- `ACK_TAG` (R11). -/
def ackTag : Byte := 0x40#8

/-- Parse result codes (R151). -/
def resultGiveUp : Byte := 0x00#8
/-- R151. -/
def resultTryAgain : Byte := 0x01#8
/-- R151. -/
def resultGoodMsg : Byte := 0x02#8

/-- The classes of PARSE_DISPATCH (R164). -/
inductive PacketClass where
  | none
  | keyPushed
  | keyDropped
  | keyNoData
  | ack
  | other
  deriving DecidableEq, Repr

/-- The class codes of R164. -/
def PacketClass.code : PacketClass → Byte
  | .none => 0x00#8
  | .keyPushed => 0x01#8
  | .keyDropped => 0x02#8
  | .keyNoData => 0x03#8
  | .ack => 0x04#8
  | .other => 0x05#8

/-- The success byte of KR_PUSH (R141). -/
def successByte (ok : Bool) : Byte := if ok then 0x01#8 else 0x00#8

end Sys2Proof.Machine
end

