-- ==== Sys2Proof/Machine/Operands.lean ====
section
/-! DEFINITION. Operand assembly and byte order (20_memory.md R42, R43; 30_encoding.md R63, R69). Every multi-byte
value, on the wire and on the host port, is little-endian; nothing is sign-extended, scaled or shifted. -/

namespace Sys2Proof.Machine

/-- `zext_16` (R13). -/
def zext16 (b : Byte) : Word16 := b.setWidth 16

/-- `zext_16(lo) | (zext_16(hi) << 8)` (R42, R63, R69). -/
def le16 (lo hi : Byte) : Word16 := zext16 lo ||| (zext16 hi <<< 8)

/-- `w[7:0]` (R12). -/
def lo8 (w : Word16) : Byte := w.extractLsb' 0 8

/-- `w[15:8]` (R12). -/
def hi8 (w : Word16) : Byte := w.extractLsb' 8 8

/-- A 16-bit value as the host port and the wire carry it: low byte first (R43, R63). -/
def le16Bytes (w : Word16) : List Byte := [lo8 w, hi8 w]

/-- A count of the block as one response byte (R71, D5). -/
def countByte (n : Nat) : Byte := BitVec.ofNat 8 n

/-- The operation id `command[5:0]` (R12, R65). -/
def opId (c : Byte) : Nat := (c.extractLsb' 0 6).toNat

/-- The type tag `command[7:6]` (R12, R64). -/
def typeTag (c : Byte) : Nat := (c.extractLsb' 6 2).toNat

end Sys2Proof.Machine
end

