-- ==== Sys2Proof/Config.lean ====
section
/-! DEFINITION. What an instance fixes when it is built (00_scope.md R6), and the model's free values. A free value
is an opaque constant: no proof can see what it is. -/

namespace Sys2Proof

/-- The implementation parameters of R6. `FILL_MAX` is not a field: R6 constrains it to equal `MAX_DATA`, see
`Params.fillMax`. The constraints themselves are `Params.Wf` in Machine/Ops.lean. -/
structure Params where
  /-- `N_RB`: byte slots of the Receive Buffer array. -/
  nRb : Nat
  /-- `N_KR`: byte slots of the Key Ring array. -/
  nKr : Nat
  /-- `MAX_CMD`: the largest operation id the framer accepts (R9). -/
  maxCmd : Nat
  /-- `MAX_DATA`: the largest `data_length` the framer accepts (R10). -/
  maxData : Nat
  deriving DecidableEq, Repr

/-- `FILL_MAX = MAX_DATA` (R6). -/
def Params.fillMax (p : Params) : Nat := p.maxData

/-- The reference values of R6: `N_RB = 64`, `N_KR = 16`, `MAX_CMD = 21`, `MAX_DATA = 16`. -/
def Params.reference : Params := ⟨64, 16, 21, 16⟩

/-- What `RB[i]` holds at power-on: unspecified (R21, R37, U2). Free value, log entry 2. -/
opaque Config.powerOnRb : Nat → Byte

/-- What `KR[i]` holds at power-on: unspecified (R27, R37, U2). Free value, log entry 2. -/
opaque Config.powerOnKr : Nat → Byte

/-- How many bytes the line's short read offers to the n-th fill whose draw the environment has not fixed
(R15 `draw`, R112, U4). Free value, log entry 3. -/
opaque Config.freeDraw : Nat → Nat

/-- `HOST_MODE` (R214, D18, U9): a parameter of the host, not of the block. -/
inductive HostMode where
  | wait
  | noWait
  deriving DecidableEq, Repr

/-- The host's own parameters (R212, R213, R214), times in microseconds. The block does not see them. -/
structure HostParams where
  mode : HostMode
  deadline : Nat
  poll : Nat
  deriving DecidableEq, Repr

/-- The reference values of R213: `DEADLINE` 250 ms, `POLL` 250 µs. The spec gives `HOST_MODE` no reference value
(R214, D18, U9), so the mode stays an argument and none is chosen (log entry 8). -/
def HostParams.reference (mode : HostMode) : HostParams := ⟨mode, 250000, 250⟩

end Sys2Proof
end

