-- ==== Sys2Proof/Machine/State.lean ====
section
/-! DEFINITION. The state of the block and of its two external interfaces (10_state.md R20 to R37), the reasons a
step can stop, and the state after reset. State is plain data. -/

namespace Sys2Proof.Machine

/-- A byte array of the block, as the list of the slots written since power-on with their bytes, indices strictly
rising (`Memory.wf` in Machine/Ops.lean). An unlisted slot holds its unspecified power-on byte (log entry 2), so no
listed entry can equal what an unlisted slot reads as. -/
abbrev Memory := List Host.Cell

/-- A move of an agent outside the block (R20), as plain data: it says who moves next (log entry 4). -/
inductive Move where
  /-- The line appends bytes to `Line.pending` (R20, R32). -/
  | deliver (bytes : List Byte)
  /-- The host presents op-word bytes on the host port: op words, one after the other (R68, R72). -/
  | issue (bytes : List Byte)
  /-- A block reset (R240). -/
  | blockReset
  deriving DecidableEq, Repr

/-- Everything the spec gives the block, its line and its host port. The last three fields are the model's own. -/
structure State where
  /-- The parameters the instance was built with (R6). No step changes them (R36). -/
  params : Params
  /-- `RB[0..N_RB-1]` (R21). -/
  rb : Memory
  /-- `rb_head`, the next write position (R22). -/
  rbHead : Nat
  /-- `rb_tail`, the oldest unconsumed byte (R23). -/
  rbTail : Nat
  /-- `rb_peek`, the lookahead position (R24). -/
  rbPeek : Nat
  /-- `KR[0..N_KR-1]` (R27). -/
  kr : Memory
  /-- `kr_head`, the next write slot (R28). -/
  krHead : Nat
  /-- `kr_tail`, the oldest entry (R28). -/
  krTail : Nat
  /-- `UNMATCHED`, the discard counter (R31). -/
  unmatched : Word16
  /-- `Line.pending`: delivered bytes that no fill has taken, oldest first (R32). -/
  linePending : List Byte
  /-- The response on the host port: that of the last operation, and empty when none is pending (R71, R240). -/
  response : List Byte
  /-- Model's own: the moves of the host and the line still to come, the next one first (log entry 4). -/
  agenda : List Move
  /-- Model's own: what the line's short reads will offer to the next fills, the next one first (log entry 3). -/
  draws : List Nat
  /-- Model's own: how many fills have drawn from the free value `Config.freeDraw` (log entry 3). -/
  drawCount : Nat
  deriving DecidableEq, Repr

/-- Reasons to stop with a fault: there are none. R200: the block raises no exception, enters no trap and has no
fault state. Nobody raises one; safe. -/
inductive Fault where
  deriving DecidableEq, Repr

/-- Reasons the model does not run a step. -/
inductive Refusal where
  /-- An operation without a meaning in exec's table. Every operation has one, so nobody raises it; safe. -/
  | notModelled (mnemonic : String)
  /-- Raised by fetching: the bytes on the host port end inside an op word (R73, U11 "refuse"); safe. -/
  | truncatedOpWord
  /-- Raised by fetching: the instance violates the constraints of R6, R7 or R8 (U12 "refuse"); safe. -/
  | illFormedInstance
  /-- Raised by fetching: a value of `State` that is no state of the block, since a cursor lies outside its array
  (R13, R22, R23, R24, R28; log entry 5). No step leads there; safe. -/
  | cursorOutOfRange
  deriving DecidableEq, Repr

/-- The block right after power-on (R37, R240), built with the reference parameters: cursors and `UNMATCHED` 0, no
slot written, no response pending. The line, the agenda and the draws are outside the block: empty (log entry 6). -/
def State.reset : State where
  params := Params.reference
  rb := []
  rbHead := 0
  rbTail := 0
  rbPeek := 0
  kr := []
  krHead := 0
  krTail := 0
  unmatched := 0#16
  linePending := []
  response := []
  agenda := []
  draws := []
  drawCount := 0

end Sys2Proof.Machine
end

