-- ==== Sys2Proof/Machine/Ops.lean ====
section
/-! DEFINITION. The named operations over slots, cursors, the line and the host port that every meaning shares.
The block takes no exception and has no return from one (60_exceptions.md R200, R206); what stands in their place,
the ILLEGAL response, is `State.respondIllegal`. -/

namespace Sys2Proof

/-- The constraints of R6, R7 and R8. -/
abbrev Params.Wf (p : Params) : Prop :=
  p.maxData + 5 ≤ p.nRb ∧ p.nRb ≤ 256 ∧ 2 ≤ p.nKr ∧ p.nKr ≤ 256 ∧ p.maxCmd ≤ 63 ∧ p.maxData ≤ 250

namespace Machine

/-! ### Slots -/

/-- The canonical form of a slot list: indices strictly rising. -/
abbrev Memory.wf (m : Memory) : Prop := List.Pairwise (fun x y => x.1 < y.1) m

/-- The byte last written to a slot; none for a slot not written since power-on. -/
def Memory.read : Memory → Nat → Option Byte
  | [], _ => none
  | (i, v) :: m, a => if i = a then some v else Memory.read m a

/-- Writing one slot keeps the canonical form. -/
def Memory.write : Memory → Nat → Byte → Memory
  | [], a, v => [(a, v)]
  | (i, w) :: m, a, v =>
    if a < i then (a, v) :: (i, w) :: m
    else if a = i then (a, v) :: m
    else (i, w) :: Memory.write m a v

/-- `RB[i]` (R15). A slot not written since power-on holds an unspecified byte (R21). -/
def State.rbSlot (s : State) (i : Nat) : Byte := (Memory.read s.rb i).getD (Config.powerOnRb i)

/-- `KR[i]` (R15). A slot not written since power-on holds an unspecified byte (R27). -/
def State.krSlot (s : State) (i : Nat) : Byte := (Memory.read s.kr i).getD (Config.powerOnKr i)

/-! ### Cursors -/

/-- `inc_N(c) = (c + 1) mod N` (R14). -/
def inc (n c : Nat) : Nat := (c + 1) % n

/-- `dist_N(a, b) = (b - a) mod N`, taken in `[0, N)` (R14). -/
def dist (n a b : Nat) : Nat := (((b : Int) - (a : Int)) % (n : Int)).toNat

/-- Every cursor lies in its array (R13, R22 to R24, R28). -/
abbrev State.CursorsInRange (s : State) : Prop :=
  s.rbHead < s.params.nRb ∧ s.rbTail < s.params.nRb ∧ s.rbPeek < s.params.nRb ∧
    s.krHead < s.params.nKr ∧ s.krTail < s.params.nKr

/-- `rb_avail`: the unconsumed count (R26). -/
def State.rbAvail (s : State) : Nat := dist s.params.nRb s.rbTail s.rbHead

/-- `rb_peek_avail`: the unpeeked count (R26). -/
def State.rbPeekAvail (s : State) : Nat := dist s.params.nRb s.rbPeek s.rbHead

/-- `rb_free`: the slots a fill may still write (R26). -/
def State.rbFree (s : State) : Nat := s.params.nRb - 1 - s.rbAvail

/-- `kr_count` (R29). -/
def State.krCount (s : State) : Nat := dist s.params.nKr s.krTail s.krHead

/-- `kr_empty` (R28, R29): `kr_head = kr_tail`. -/
def State.krEmpty (s : State) : Bool := s.krHead == s.krTail

/-- `kr_full` (R28, R29): `inc_N_KR(kr_head) = kr_tail`. -/
def State.krFull (s : State) : Bool := inc s.params.nKr s.krHead == s.krTail

/-! ### The host port -/

/-- `respond(OK, fields)` (R15, R71). -/
def State.respond (s : State) (fields : List Byte) : State := { s with response := statusOk :: fields }

/-- The response to a reserved opcode: `[0xFF]`, and no state of the block changes (R72). -/
def State.respondIllegal (s : State) : State := { s with response := [statusIllegal] }

/-- Block reset (R37, R240): the cursors and `UNMATCHED` are 0 and no response is pending. The slots and
`Line.pending` are unchanged. -/
def State.blockReset (s : State) : State :=
  { s with
    rbHead := 0, rbTail := 0, rbPeek := 0, krHead := 0, krTail := 0, unmatched := 0#16, response := [] }

/-! ### The line -/

/-- The line appends bytes to the end of `Line.pending` (R20, R32). -/
def State.lineAppend (s : State) (bytes : List Byte) : State :=
  { s with linePending := s.linePending ++ bytes }

/-- What the short read of the next fill offers: the environment's choice where the state fixes one, else a free
value (R15 `draw`, U4; log entry 3). -/
def State.nextDraw (s : State) : Nat :=
  match s.draws with
  | d :: _ => d
  | [] => Config.freeDraw s.drawCount

/-- The draw is used up. -/
def State.afterDraw (s : State) : State :=
  match s.draws with
  | _ :: ds => { s with draws := ds }
  | [] => { s with drawCount := s.drawCount + 1 }

/-- `lim` of R112: `min(max_bytes, rb_free, len(Line.pending))`. -/
def State.fillLimit (s : State) (maxBytes : Nat) : Nat :=
  min maxBytes (min s.rbFree s.linePending.length)

/-- `k` of R112: how many bytes the fill takes, some value in `[0, lim]`. -/
def State.fillCount (s : State) (maxBytes : Nat) : Nat := min s.nextDraw (s.fillLimit maxBytes)

/-- `RB[rb_head] <- v; rb_head <- inc(rb_head)` (R112). -/
def State.rbStore (s : State) (v : Byte) : State :=
  { s with rb := Memory.write s.rb s.rbHead v, rbHead := inc s.params.nRb s.rbHead }

/-- The loop of R112 over the bytes taken. -/
def State.rbStoreAll (s : State) : List Byte → State
  | [] => s
  | v :: vs => State.rbStoreAll (s.rbStore v) vs

/-- The body of RB_FILL (R112), used by RB_FILL and by step 1 of PARSE (R153). -/
def State.rbFill (s : State) (maxBytes : Nat) : State :=
  let k := s.fillCount maxBytes
  State.rbStoreAll { s.afterDraw with linePending := s.linePending.drop k } (s.linePending.take k)

/-! ### Reads of the Receive Buffer -/

/-- The byte RB_GET returns (R115). -/
def State.rbGetValue (s : State) : Byte := if s.rbTail = s.rbHead then sentinel else s.rbSlot s.rbTail

/-- What RB_GET does to the cursors (R115): nothing on an empty buffer; else the tail advances, and the peek cursor
with it when it stood at the tail. -/
def State.rbGet (s : State) : State :=
  if s.rbTail = s.rbHead then s
  else
    { s with
      rbTail := inc s.params.nRb s.rbTail
      rbPeek := if s.rbPeek = s.rbTail then inc s.params.nRb s.rbPeek else s.rbPeek }

/-- The byte RB_PEEK returns (R118). -/
def State.rbPeekValue (s : State) : Byte := if s.rbPeek = s.rbHead then sentinel else s.rbSlot s.rbPeek

/-- What RB_PEEK does to the peek cursor (R118). -/
def State.rbPeekNext (s : State) : State :=
  if s.rbPeek = s.rbHead then s else { s with rbPeek := inc s.params.nRb s.rbPeek }

/-- `rb_peek <- rb_tail` (R117). -/
def State.rbSyncPeek (s : State) : State := { s with rbPeek := s.rbTail }

/-- `rb_tail <- rb_peek` (R119). -/
def State.rbAccept (s : State) : State := { s with rbTail := s.rbPeek }

/-- `n` peeks in a row (R158): the bytes they return. -/
def State.rbPeekBytes (s : State) : Nat → List Byte
  | 0 => []
  | n + 1 => s.rbPeekValue :: State.rbPeekBytes s.rbPeekNext n

/-- `n` peeks in a row: where they leave the peek cursor. -/
def State.rbPeekMany (s : State) : Nat → State
  | 0 => s
  | n + 1 => State.rbPeekMany s.rbPeekNext n

/-! ### The Key Ring -/

/-- The body of KR_PUSH (R141): a full ring drops the code and changes nothing. -/
def State.krPush (s : State) (v : Byte) : State :=
  if s.krFull then s
  else { s with kr := Memory.write s.kr s.krHead v, krHead := inc s.params.nKr s.krHead }

/-- The byte KR_POP returns (R142). -/
def State.krPopValue (s : State) : Byte := if s.krEmpty then sentinel else s.krSlot s.krTail

/-- What KR_POP does to the tail (R142). -/
def State.krPop (s : State) : State :=
  if s.krEmpty then s else { s with krTail := inc s.params.nKr s.krTail }

end Machine

end Sys2Proof
end

