-- ==== Sys2Proof/Machine/Wire.lean ====
section
/-! DEFINITION. The wire packet and the transmit frame (30_encoding.md R60 to R67). -/

namespace Sys2Proof.Machine

/-- A packet's fields in wire order (R60). It is never stored in the block (R30). -/
structure Packet where
  command : Byte
  dataLength : Byte
  data : List Byte
  crcLo : Byte
  crcHi : Byte
  deriving DecidableEq, Repr

/-- The fields in wire order, as PARSE and PARSE_DISPATCH return them (R60, R150). -/
def Packet.bytes (p : Packet) : List Byte := p.command :: p.dataLength :: p.data ++ [p.crcLo, p.crcHi]

/-- The bytes the CRC covers (R62). -/
def Packet.body (p : Packet) : List Byte := p.command :: p.dataLength :: p.data

/-- The received CRC, reassembled (R63). -/
def Packet.rx (p : Packet) : Word16 := le16 p.crcLo p.crcHi

/-- R108: a candidate is good if and only if its checksum over the body equals the reassembled wire CRC. -/
def Packet.good (p : Packet) : Bool := crc16 p.body crcSeed == p.rx

/-- The classes of a command byte (R64). -/
inductive CommandClass where
  | request
  | acknowledgement
  | keyEvent
  | undefinedTag
  deriving DecidableEq, Repr

/-- R64. The framer applies no test to it (R64, R155). -/
def commandClass (c : Byte) : CommandClass :=
  if typeTag c = 0 then .request
  else if typeTag c = 1 then .acknowledgement
  else if c = keyEventCmd then .keyEvent
  else .undefinedTag

/-- The acknowledgement of request `q`: `0x40 | q` (R66). -/
def ackOf (q : Byte) : Byte := ackTag ||| q

/-- Whether a good packet with command `c` is the acknowledgement PARSE_DISPATCH `q` waits for: it equals `0x40 | q`
(R160, R162) and its type tag is that of an acknowledgement (R64). For `q` with bit 7 clear the first says the second;
for the others `0x40 | q` has tag `11`, which R74, R163 and U6 classify OTHER. DEDUCED, log entry 14. -/
def isExpectedAck (q c : Byte) : Bool :=
  c == ackOf q && commandClass c == .acknowledgement

/-- `TxFrame(q, d)` (R67). -/
def txFrame (q : Byte) (d : List Byte) : List Byte :=
  let body := q :: countByte d.length :: d
  body ++ le16Bytes (crc16 body crcSeed)

end Sys2Proof.Machine
end

