-- ==== Sys2Proof/Machine/Framer.lean ====
section
/-! DEFINITION. The packet framer PARSE, the dispatch of good packets PARSE_DISPATCH, and UNMATCHED_READ
(43_framer.md). -/

namespace Sys2Proof.Machine

/-- A parse result (R151). -/
inductive ParseResult where
  | giveUp
  | tryAgain
  | goodMsg (p : Packet)
  deriving DecidableEq, Repr

/-- The result byte (R151). -/
def ParseResult.code : ParseResult → Byte
  | .giveUp => resultGiveUp
  | .tryAgain => resultTryAgain
  | .goodMsg _ => resultGoodMsg

/-- The packet fields of a response: only a GOOD_MSG has any (R71, R150, R160). -/
def ParseResult.fields : ParseResult → List Byte
  | .giveUp => []
  | .tryAgain => []
  | .goodMsg p => p.bytes

/-- Steps 6 and 7 of R152 on a complete candidate with header `c`, `n`: gather it and check its CRC (R158, R159). -/
def parseCheck (c n : Byte) (s : State) : ParseResult × State :=
  let d := s.rbPeekBytes n.toNat
  let s₁ := s.rbPeekMany n.toNat
  let lo := s₁.rbPeekValue
  let s₂ := s₁.rbPeekNext
  let hi := s₂.rbPeekValue
  let s₃ := s₂.rbPeekNext
  let p : Packet := ⟨c, n, d, lo, hi⟩
  if p.good then (.goodMsg p, s₃.rbAccept) else (.tryAgain, s₃.rbGet)

/-- Steps 4 and 5 of R152 with candidate command `c`: the length test and completeness (R156, R157). -/
def parseLength (c : Byte) (s : State) : ParseResult × State :=
  let n := s.rbPeekValue
  let s₁ := s.rbPeekNext
  if s.params.maxData < n.toNat then (.tryAgain, s₁.rbGet)
  else if s₁.rbPeekAvail < n.toNat + 2 then (.giveUp, s₁)
  else parseCheck c n s₁

/-- Step 3 of R152: sync, and the command test (R155). -/
def parseCommand (s : State) : ParseResult × State :=
  let s₀ := s.rbSyncPeek
  let c := s₀.rbPeekValue
  let s₁ := s₀.rbPeekNext
  if s.params.maxCmd < opId c then (.tryAgain, s₁.rbGet) else parseLength c s₁

/-- Steps 2 to 7 of R152: the minimum (R154), then the candidate at the tail. -/
def parseCandidate (s : State) : ParseResult × State :=
  if s.rbAvail < 4 then (.giveUp, s) else parseCommand s

/-- The PARSE algorithm (R152): the fill of step 1 (R153), then steps 2 to 7. -/
def parseBody (s : State) : ParseResult × State := parseCandidate (s.rbFill s.params.fillMax)

/-- PARSE (R150). -/
def execParse (s : State) : Host.Outcome State Fault Refusal :=
  .next ((parseBody s).2.respond ((parseBody s).1.code :: (parseBody s).1.fields))

/-- The classification of a parse result for expected request `q` (R160 to R164), read in the state PARSE left. The
key-event test comes before the acknowledgement test, which is `isExpectedAck`. -/
def classify (q : Byte) (r : ParseResult) (s : State) : PacketClass :=
  match r with
  | .giveUp => .none
  | .tryAgain => .none
  | .goodMsg p =>
    if p.command = keyEventCmd then
      match p.data with
      | [] => .keyNoData
      | _ :: _ => if s.krFull then .keyDropped else .keyPushed
    else if isExpectedAck q p.command then .ack
    else .other

/-- What the classification does to the block (R160): a key event pushes `data[0]`, a packet of class OTHER is
counted in `UNMATCHED`, modulo 2^16. Its tests are those of `classify`. -/
def dispatch (q : Byte) (r : ParseResult) (s : State) : State :=
  match r with
  | .giveUp => s
  | .tryAgain => s
  | .goodMsg p =>
    if p.command = keyEventCmd then
      match p.data with
      | [] => s
      | v :: _ => s.krPush v
    else if isExpectedAck q p.command then s
    else { s with unmatched := s.unmatched + 1#16 }

/-- PARSE_DISPATCH (R160): one PARSE, then the classification of a good packet. -/
def execParseDispatch (q : Byte) (s : State) : Host.Outcome State Fault Refusal :=
  let r := (parseBody s).1
  let t := (parseBody s).2
  .next ((dispatch q r t).respond (r.code :: (classify q r t).code :: r.fields))

/-- UNMATCHED_READ (R165): low byte first, and the counter is not cleared. -/
def execUnmatchedRead (s : State) : Host.Outcome State Fault Refusal :=
  .next (s.respond (le16Bytes s.unmatched))

end Sys2Proof.Machine
end

