-- ==== Sys2Proof/Machine/KeyRing.lean ====
section
/-! DEFINITION. The three Key Ring operations (42_keyring.md). -/

namespace Sys2Proof.Machine

/-- KR_RESET (R140). -/
def execKrReset (s : State) : Host.Outcome State Fault Refusal :=
  .next (State.respond { s with krHead := 0, krTail := 0 } [])

/-- KR_PUSH (R141): the response says whether the code was stored. -/
def execKrPush (v : Byte) (s : State) : Host.Outcome State Fault Refusal :=
  .next ((s.krPush v).respond [successByte (!s.krFull)])

/-- KR_POP (R142). -/
def execKrPop (s : State) : Host.Outcome State Fault Refusal :=
  .next (s.krPop.respond [s.krPopValue])

end Sys2Proof.Machine
end

