-- ==== Sys2Proof/Machine/RxBuf.lean ====
section
/-! DEFINITION. The eight Receive Buffer operations (41_rxbuf.md). -/

namespace Sys2Proof.Machine

/-- RB_RESET (R111). -/
def execRbReset (s : State) : Host.Outcome State Fault Refusal :=
  .next (State.respond { s with rbHead := 0, rbTail := 0, rbPeek := 0 } [])

/-- RB_FILL (R112, R113). -/
def execRbFill (maxBytes : Byte) (s : State) : Host.Outcome State Fault Refusal :=
  .next ((s.rbFill maxBytes.toNat).respond [countByte (s.fillCount maxBytes.toNat)])

/-- RB_AVAIL (R114). -/
def execRbAvail (s : State) : Host.Outcome State Fault Refusal :=
  .next (s.respond [countByte s.rbAvail])

/-- RB_GET (R115). -/
def execRbGet (s : State) : Host.Outcome State Fault Refusal :=
  .next (s.rbGet.respond [s.rbGetValue])

/-- RB_PEEK_AVAIL (R116). -/
def execRbPeekAvail (s : State) : Host.Outcome State Fault Refusal :=
  .next (s.respond [countByte s.rbPeekAvail])

/-- RB_SYNC_PEEK (R117). -/
def execRbSyncPeek (s : State) : Host.Outcome State Fault Refusal :=
  .next (s.rbSyncPeek.respond [])

/-- RB_PEEK (R118). -/
def execRbPeek (s : State) : Host.Outcome State Fault Refusal :=
  .next (s.rbPeekNext.respond [s.rbPeekValue])

/-- RB_ACCEPT (R119). -/
def execRbAccept (s : State) : Host.Outcome State Fault Refusal :=
  .next (s.rbAccept.respond [])

end Sys2Proof.Machine
end

