-- ==== Sys2Proof/Syntax.lean ====
section
/-! DEFINITION. The 15 operations of the block, one constructor per row of spec/opcode_table.json
(30_encoding.md R70). -/

namespace Sys2Proof

/-- An operation of the host port with its operands (R69, R70). In `crc16` the operand `L` is the number of data
bytes listed. -/
inductive Instr where
  | rbReset
  | rbFill (maxBytes : Byte)
  | rbAvail
  | rbGet
  | rbPeekAvail
  | rbSyncPeek
  | rbPeek
  | rbAccept
  | krReset
  | krPush (v : Byte)
  | krPop
  | crc16 (seed : Word16) (bytes : List Byte)
  | parse
  | parseDispatch (q : Byte)
  | unmatchedRead
  deriving DecidableEq, Repr

/-- The three op-word formats of R69. -/
inductive Format where
  | op0
  | op1
  | opCrc
  deriving DecidableEq, Repr

/-- The format column of R70. -/
def Instr.format : Instr → Format
  | .rbReset => .op0
  | .rbFill _ => .op1
  | .rbAvail => .op0
  | .rbGet => .op0
  | .rbPeekAvail => .op0
  | .rbSyncPeek => .op0
  | .rbPeek => .op0
  | .rbAccept => .op0
  | .krReset => .op0
  | .krPush _ => .op1
  | .krPop => .op0
  | .crc16 _ _ => .opCrc
  | .parse => .op0
  | .parseDispatch _ => .op1
  | .unmatchedRead => .op0

/-- The mnemonic column of R70. -/
def Instr.mnemonic : Instr → String
  | .rbReset => "RB_RESET"
  | .rbFill _ => "RB_FILL"
  | .rbAvail => "RB_AVAIL"
  | .rbGet => "RB_GET"
  | .rbPeekAvail => "RB_PEEK_AVAIL"
  | .rbSyncPeek => "RB_SYNC_PEEK"
  | .rbPeek => "RB_PEEK"
  | .rbAccept => "RB_ACCEPT"
  | .krReset => "KR_RESET"
  | .krPush _ => "KR_PUSH"
  | .krPop => "KR_POP"
  | .crc16 _ _ => "CRC16"
  | .parse => "PARSE"
  | .parseDispatch _ => "PARSE_DISPATCH"
  | .unmatchedRead => "UNMATCHED_READ"

end Sys2Proof
end

