-- ==== Sys2Proof/Machine/Dispatch.lean ====
section
/-! DEFINITION. One arm per operation of 30_encoding.md R70, each a direct call of its meaning. -/

namespace Sys2Proof.Machine

def exec (i : Instr) (s : State) : Host.Outcome State Fault Refusal :=
  match i with
  | .rbReset => Sys2Proof.Machine.execRbReset s
  | .rbFill a => Sys2Proof.Machine.execRbFill a s
  | .rbAvail => Sys2Proof.Machine.execRbAvail s
  | .rbGet => Sys2Proof.Machine.execRbGet s
  | .rbPeekAvail => Sys2Proof.Machine.execRbPeekAvail s
  | .rbSyncPeek => Sys2Proof.Machine.execRbSyncPeek s
  | .rbPeek => Sys2Proof.Machine.execRbPeek s
  | .rbAccept => Sys2Proof.Machine.execRbAccept s
  | .krReset => Sys2Proof.Machine.execKrReset s
  | .krPush v => Sys2Proof.Machine.execKrPush v s
  | .krPop => Sys2Proof.Machine.execKrPop s
  | .crc16 seed bytes => Sys2Proof.Machine.execCrc16 seed bytes s
  | .parse => Sys2Proof.Machine.execParse s
  | .parseDispatch q => Sys2Proof.Machine.execParseDispatch q s
  | .unmatchedRead => Sys2Proof.Machine.execUnmatchedRead s

end Sys2Proof.Machine
end

