-- ==== Sys2Proof/WellFormed.lean ====
section
/-! DEFINITION. Which terms of `Instr` an op word can carry (30_encoding.md R69, R73). -/

namespace Sys2Proof

/-- R73: operand values have no illegal encodings. The only bound is that the count `L` of CRC16 data bytes is an
unsigned byte, 0..255 (R69, R100). -/
def Instr.wellFormed : Instr → Bool
  | .crc16 _ bytes => decide (bytes.length ≤ 255)
  | .rbReset | .rbFill _ | .rbAvail | .rbGet | .rbPeekAvail | .rbSyncPeek | .rbPeek | .rbAccept
  | .krReset | .krPush _ | .krPop | .parse | .parseDispatch _ | .unmatchedRead => true

end Sys2Proof
end

