-- ==== Sys2Proof/Decode.lean ====
section
/-! DEFINITION. Decoding the byte stream of the host port into operations, and encoding them (30_encoding.md R68 to
R73). Decoding is total on any bytes: it answers an operation, a reserved opcode by its byte, or a truncated word. -/

namespace Sys2Proof

open Sys2Proof.Machine

/-- What the front of the host port's byte sequence is. -/
inductive Decoded where
  /-- A whole op word of an operation, and the bytes after it. -/
  | op (i : Instr) (rest : List Byte)
  /-- A reserved opcode: a one-byte op word (R72), and the bytes after it. -/
  | reserved (opcode : Byte) (rest : List Byte)
  /-- The bytes end inside an op word (R73), or there are none. -/
  | truncated
  deriving DecidableEq, Repr

/-- Format OP1 (R69): one operand byte. -/
def decodeOp1 (mk : Byte → Instr) : List Byte → Decoded
  | a :: rest => .op (mk a) rest
  | [] => .truncated

/-- Format OPCRC (R69): seed low byte first, `L`, then `L` data bytes. -/
def decodeOpCrc : List Byte → Decoded
  | lo :: hi :: len :: rest =>
    if rest.length < len.toNat then .truncated
    else .op (.crc16 (le16 lo hi) (rest.take len.toNat)) (rest.drop len.toNat)
  | _ => .truncated

/-- The opcode map of R70, matched on all eight bits; every other opcode is reserved (R72). -/
def decode : List Byte → Decoded
  | [] => .truncated
  | opcode :: rest =>
    match opcode with
    | 0x00#8 => .op .rbReset rest
    | 0x01#8 => decodeOp1 .rbFill rest
    | 0x02#8 => .op .rbAvail rest
    | 0x03#8 => .op .rbGet rest
    | 0x04#8 => .op .rbPeekAvail rest
    | 0x05#8 => .op .rbSyncPeek rest
    | 0x06#8 => .op .rbPeek rest
    | 0x07#8 => .op .rbAccept rest
    | 0x10#8 => .op .krReset rest
    | 0x11#8 => decodeOp1 .krPush rest
    | 0x12#8 => .op .krPop rest
    | 0x20#8 => decodeOpCrc rest
    | 0x30#8 => .op .parse rest
    | 0x31#8 => decodeOp1 .parseDispatch rest
    | 0x32#8 => .op .unmatchedRead rest
    | _ => .reserved opcode rest

/-- The opcodes R72 lists as reserved. -/
def reservedOpcode (opcode : Byte) : Bool :=
  (0x08 ≤ opcode.toNat && opcode.toNat ≤ 0x0F) || (0x13 ≤ opcode.toNat && opcode.toNat ≤ 0x1F)
    || (0x21 ≤ opcode.toNat && opcode.toNat ≤ 0x2F) || (0x33 ≤ opcode.toNat && opcode.toNat ≤ 0xFF)

/-- The op word of an operation (R69, R70): its bytes on the host port, the opcode first. -/
def encode : Instr → List Byte
  | .rbReset => [0x00#8]
  | .rbFill a => [0x01#8, a]
  | .rbAvail => [0x02#8]
  | .rbGet => [0x03#8]
  | .rbPeekAvail => [0x04#8]
  | .rbSyncPeek => [0x05#8]
  | .rbPeek => [0x06#8]
  | .rbAccept => [0x07#8]
  | .krReset => [0x10#8]
  | .krPush v => [0x11#8, v]
  | .krPop => [0x12#8]
  | .crc16 seed bytes => [0x20#8, lo8 seed, hi8 seed, countByte bytes.length] ++ bytes
  | .parse => [0x30#8]
  | .parseDispatch q => [0x31#8, q]
  | .unmatchedRead => [0x32#8]

/-- The length of the op word at the front of the port, told from byte 0, and for CRC16 from byte 3 as well (R68).
A reserved opcode is one byte long (R72). None where the bytes end before the length can be told. -/
def opWordLength : List Byte → Option Nat
  | [] => none
  | opcode :: rest =>
    match opcode with
    | 0x01#8 => some 2
    | 0x11#8 => some 2
    | 0x31#8 => some 2
    | 0x20#8 =>
      match rest with
      | _ :: _ :: len :: _ => some (4 + len.toNat)
      | _ => none
    | _ => some 1

/-- `k` bytes of the number `w`, the least significant byte first. -/
def numberBytes : Nat → Nat → List Byte
  | 0, _ => []
  | k + 1, w => BitVec.ofNat 8 w :: numberBytes k (w / 256)

/-- An op word whose bits are `w`, numbered as spec/opcode_table.json numbers them, as bytes on the host port: byte 0
holds bits 7..0. Bits at and above `nbits` are zero. Its length is told from its first four bytes (R68). -/
def tableOpWord (nbits w : Nat) : List Byte :=
  let v := w % 2 ^ nbits
  numberBytes ((opWordLength (numberBytes 4 v)).getD 1) v

/-- The operation the decoder reads from a table word. -/
def decodeTableWord (nbits w : Nat) : Option Instr :=
  match decode (tableOpWord nbits w) with
  | .op i _ => some i
  | .reserved _ _ => none
  | .truncated => none

end Sys2Proof
end

