-- ==== Sys2Proof/Machine/Fetch.lean ====
section
/-! DEFINITION. Whose turn it is, and which op word the host port presents. The block has no program counter and
fetches nothing from storage (10_state.md R35, 20_memory.md R52): the next operation is whatever the host issues. -/

namespace Sys2Proof.Machine

/-- What the next step does. -/
inductive Turn where
  /-- A state reached without running an operation: the line's move, a block reset, the ILLEGAL response, or
  nothing at all. -/
  | settled (s : State)
  /-- The operation the block performs, and the state it starts in. -/
  | run (i : Instr) (s : State)
  /-- The model has no move. -/
  | stop (r : Refusal)
  deriving DecidableEq, Repr

/-- The agenda once an op word has left the host port: the bytes after it stay in front (R72). -/
def portRest (rest : List Byte) (moves : List Move) : List Move :=
  if rest.isEmpty then moves else .issue rest :: moves

/-- The host presents bytes on the port (R68): an operation runs, a reserved opcode is answered ILLEGAL and nothing
else changes (R72), a sequence that ends inside an op word is refused (R73, U11). No bytes are no op word. -/
def portTurn (s : State) (bytes : List Byte) (moves : List Move) : Turn :=
  if bytes.isEmpty then .settled { s with agenda := moves }
  else
    match decode bytes with
    | .op i rest => .run i { s with agenda := portRest rest moves }
    | .reserved _ rest => .settled (State.respondIllegal { s with agenda := portRest rest moves })
    | .truncated => .stop .truncatedOpWord

/-- Whose turn it is (R16, R20, R49). With no move to come the block is idle and no state changes (R222). -/
def nextTurn (s : State) : Turn :=
  if ¬ s.params.Wf then .stop .illFormedInstance
  else if ¬ s.CursorsInRange then .stop .cursorOutOfRange
  else
    match s.agenda with
    | [] => .settled s
    | .deliver bytes :: moves => .settled (State.lineAppend { s with agenda := moves } bytes)
    | .blockReset :: moves => .settled (State.blockReset { s with agenda := moves })
    | .issue bytes :: moves => portTurn s bytes moves

/-- The host presents these bytes next. -/
def State.hostIssues (s : State) (bytes : List Byte) : State := { s with agenda := .issue bytes :: s.agenda }

end Sys2Proof.Machine
end

