-- ==== Sys2Proof/Machine/Step.lean ====
section
/-! DEFINITION. One step: one operation of the block, or one move of the line (10_state.md R20). -/

namespace Sys2Proof.Machine

/-- One atomic step (00_scope.md R16). -/
def step (s : State) : Host.Outcome State Fault Refusal :=
  match nextTurn s with
  | .settled t => .next t
  | .run i t => exec i t
  | .stop r => .refused r

/-- The state with the op word of a table row presented next on the host port (log entry 7). -/
def State.withFetchWord (s : State) (nbits w : Nat) : State := s.hostIssues (tableOpWord nbits w)

end Sys2Proof.Machine
end

