-- ==== Sys2Proof/Machine/Assembler.lean ====
section
/-! DEFINITION. The spec's assembler syntax and pseudo-operations (30_encoding.md R75, R76): what a line stands for,
and how it is written. -/

namespace Sys2Proof.Machine

/-- One line of assembly (R75, R76). -/
inductive AsmLine where
  /-- An operation under its mnemonic (R75). -/
  | op (i : Instr)
  /-- `.byte v`, one raw byte, used to write a reserved opcode (R75). -/
  | byte (v : Byte)
  /-- `RB_DISCARD` (R76). -/
  | rbDiscard
  /-- `GET_KEY` (R76). -/
  | getKey
  /-- `CRC_PKT [b...]` (R76). -/
  | crcPkt (bytes : List Byte)
  deriving DecidableEq, Repr

/-- The op-word bytes a line stands for: R75, and exactly the expansions of R76. -/
def AsmLine.words : AsmLine → List Byte
  | .op i => encode i
  | .byte v => [v]
  | .rbDiscard => encode .rbGet
  | .getKey => encode .krPop
  | .crcPkt bytes => encode (.crc16 crcSeed bytes)

/-- The concatenated op words of a program (95_test_vectors.md section 8). -/
def assemble (lines : List AsmLine) : List Byte := lines.flatMap AsmLine.words

/-- `n` hexadecimal digits of a number, the most significant first. -/
def hexDigits : Nat → Nat → List Char
  | 0, _ => []
  | n + 1, w => hexDigits n (w / 16) ++ [("0123456789ABCDEF".toList).getD (w % 16) '0']

/-- A byte written in hex (R75). -/
def byteText (b : Byte) : String := "0x" ++ String.ofList (hexDigits 2 b.toNat)

/-- The listed bytes of R75. -/
def bytesText (bytes : List Byte) : String := "[" ++ ", ".intercalate (bytes.map byteText) ++ "]"

/-- How a line is written, with bytes in hex (R75, R76). -/
def AsmLine.text : AsmLine → String
  | .op i =>
    match i with
    | .rbFill a => i.mnemonic ++ " " ++ byteText a
    | .krPush v => i.mnemonic ++ " " ++ byteText v
    | .parseDispatch q => i.mnemonic ++ " " ++ byteText q
    | .crc16 seed bytes =>
      i.mnemonic ++ " 0x" ++ String.ofList (hexDigits 4 seed.toNat) ++ ", " ++ bytesText bytes
    | .rbReset | .rbAvail | .rbGet | .rbPeekAvail | .rbSyncPeek | .rbPeek | .rbAccept
    | .krReset | .krPop | .parse | .unmatchedRead => i.mnemonic
  | .byte v => ".byte " ++ byteText v
  | .rbDiscard => "RB_DISCARD"
  | .getKey => "GET_KEY"
  | .crcPkt bytes => "CRC_PKT " ++ bytesText bytes

end Sys2Proof.Machine
end

