-- ==== Sys2Proof/Machine/Transport.lean ====
section
/-! DEFINITION. The host protocol (60_exceptions.md R213, R214; 70_reset_and_hazards.md R241, R242, R257): the
Transport of DOC, which is outside the block, as the sequence of block operations it issues (log entry 8). -/

namespace Sys2Proof.Machine

/-- What happens outside the block before one turn of the host's loop: how long it took, and what the line
delivered meanwhile. -/
structure Tick where
  elapsed : Nat
  arrived : List Byte
  deriving DecidableEq, Repr

/-- What SEND returns (R213, R214, D18). -/
inductive SendResult where
  | acknowledged
  | timedOut
  /-- Mode NO_WAIT returned at its first GIVE_UP. -/
  | drained
  deriving DecidableEq, Repr

/-- A run of SEND's loop over a given list of ticks. -/
inductive SendRun where
  /-- SEND returned. -/
  | returned (r : SendResult) (s : State)
  /-- The list of ticks ended first: the loop is still running (R257, U3). -/
  | running (s : State)
  deriving DecidableEq, Repr

/-- The loop of R213 (mode WAIT) and of R214 (mode NO_WAIT), one tick a turn: issue PARSE_DISPATCH `q`, read the
result and class bytes of its response. Only a GIVE_UP looks at the deadline and sleeps (R257). -/
def sendLoop (h : HostParams) (q : Byte) (deadlineAt : Nat) : List Tick → Nat → State → SendRun
  | [], _, s => .running s
  | tick :: ticks, now, s =>
    match exec (.parseDispatch q) (s.lineAppend tick.arrived) with
    | .next t =>
      let now' := now + tick.elapsed
      let result := t.response.getD 1 0x00#8
      let cls := t.response.getD 2 0x00#8
      if result = resultGiveUp then
        match h.mode with
        | .noWait => .returned .drained t
        | .wait =>
          if deadlineAt ≤ now' then .returned .timedOut t
          else sendLoop h q deadlineAt ticks (now' + h.poll) t
      else if result = resultGoodMsg ∧ cls = PacketClass.ack.code ∧ h.mode = .wait then
        .returned .acknowledged t
      else sendLoop h q deadlineAt ticks now' t
    | .fault _ => .running s
    | .refused _ => .running s

/-- `SEND(q, d)` begun at time `now`: the bytes written to the line sink, which is outside the block, and the run of
the loop. -/
def send (h : HostParams) (q : Byte) (d : List Byte) (now : Nat) (ticks : List Tick) (s : State) :
    List Byte × SendRun :=
  (txFrame q d, sendLoop h q (now + h.deadline) ticks now s)

/-- What the host issues on open and on each re-init (R217, R241, R242). -/
def hostInit : List Instr := [.rbReset, .krReset]

end Sys2Proof.Machine
end

