-- ==== Sys2Proof/Machine/Views.lean ====
section
/-! DEFINITION. The contents of the two arrays as the spec's prose speaks of them (00_scope.md glossary), and the
framer as a function of a byte sequence. No meaning uses these: statements do. -/

namespace Sys2Proof.Machine

/-- The `k` bytes of RB from cursor `c` on. -/
def State.rbFrom (s : State) (c k : Nat) : List Byte :=
  (List.range k).map (fun i => s.rbSlot ((c + i) % s.params.nRb))

/-- The unconsumed bytes, `[rb_tail, rb_head)`, oldest first. -/
def State.unconsumed (s : State) : List Byte := s.rbFrom s.rbTail s.rbAvail

/-- The peeked bytes, `[rb_tail, rb_peek)`. -/
def State.peeked (s : State) : List Byte := s.rbFrom s.rbTail (dist s.params.nRb s.rbTail s.rbPeek)

/-- The unpeeked bytes, `[rb_peek, rb_head)`. -/
def State.unpeeked (s : State) : List Byte := s.rbFrom s.rbPeek s.rbPeekAvail

/-- The queued key codes, oldest first (R28, R29). -/
def State.keys (s : State) : List Byte :=
  (List.range s.krCount).map (fun i => s.krSlot ((s.krTail + i) % s.params.nKr))

/-- The bytes the next fill with this limit takes off the line (R112). -/
def State.fillTaken (s : State) (maxBytes : Nat) : List Byte := s.linePending.take (s.fillCount maxBytes)

/-- Steps 2 to 7 of R152 read as a function of the unconsumed bytes: the result, and how many bytes are consumed.
It knows no buffer and no cursor. -/
def frameBytes (p : Params) : List Byte → ParseResult × Nat
  | c :: n :: rest =>
    if rest.length < 2 then (.giveUp, 0)
    else if p.maxCmd < opId c then (.tryAgain, 1)
    else if p.maxData < n.toNat then (.tryAgain, 1)
    else
      match rest.drop n.toNat with
      | lo :: hi :: _ =>
        let pkt : Packet := ⟨c, n, rest.take n.toNat, lo, hi⟩
        if crc16 pkt.body crcSeed = pkt.rx then (.goodMsg pkt, n.toNat + 4) else (.tryAgain, 1)
      | _ => (.giveUp, 0)
  | _ => (.giveUp, 0)

end Sys2Proof.Machine
end

