-- ==== Sys2Proof/Safety.lean ====
section
/-! DEFINITION. What counts as a safe state and a safe run: the invariants of 10_state.md R25, R28 and R36, and runs
of operations and of steps. -/

namespace Sys2Proof.Machine

/-- The block's invariant. R25 and R28 give the cursor part; the last two lines are why no operation can read a slot
that has not been written since power-on (R21, R27). -/
structure State.Inv (s : State) : Prop where
  /-- The instance meets R6, R7 and R8. -/
  params : s.params.Wf
  /-- R22 to R24, R28: every cursor lies in its array. -/
  cursors : s.CursorsInRange
  /-- I-RB1 (R25). -/
  peekBetween : dist s.params.nRb s.rbTail s.rbPeek ≤ s.rbAvail
  /-- The slot lists are canonical. -/
  rbCanonical : Memory.wf s.rb
  krCanonical : Memory.wf s.kr
  /-- Only slots of the arrays are listed. -/
  rbSlots : ∀ c ∈ s.rb, c.1 < s.params.nRb
  krSlots : ∀ c ∈ s.kr, c.1 < s.params.nKr
  /-- Every unconsumed byte was written (R21). -/
  rbWritten : ∀ i < s.rbAvail, (Memory.read s.rb ((s.rbTail + i) % s.params.nRb)).isSome
  /-- Every queued code was written (R27). -/
  krWritten : ∀ i < s.krCount, (Memory.read s.kr ((s.krTail + i) % s.params.nKr)).isSome

/-- `k` steps, stopping at the first refusal. -/
def stepMany : Nat → State → Host.Outcome State Fault Refusal
  | 0, s => .next s
  | k + 1, s =>
    match step s with
    | .next t => stepMany k t
    | .fault r => .fault r
    | .refused r => .refused r

/-- A list of operations performed one after the other, each after the previous one has responded (R47). -/
def runOps : List Instr → State → Host.Outcome State Fault Refusal
  | [], s => .next s
  | i :: is, s =>
    match exec i s with
    | .next t => runOps is t
    | .fault r => .fault r
    | .refused r => .refused r

/-- The same, collecting the response of each operation. -/
def responses : List Instr → State → List (List Byte)
  | [], _ => []
  | i :: is, s =>
    match exec i s with
    | .next t => t.response :: responses is t
    | .fault _ => []
    | .refused _ => []

/-- The bytes that the RB_GETs of a list of operations took out of a non-empty buffer, in order (R121). -/
def gotBytes : List Instr → State → List Byte
  | [], _ => []
  | i :: is, s =>
    match exec i s with
    | .next t =>
      (if i = .rbGet ∧ s.rbTail ≠ s.rbHead then [t.response.getD 1 sentinel] else []) ++ gotBytes is t
    | .fault _ => []
    | .refused _ => []

end Sys2Proof.Machine
end

