-- ==== Sys2Proof/Certificates/Slice0/Obligations.lean ====
section
/-! DEFINITION. The statements for the provers, in the order of the spec's files. Each docstring names the rules. A
statement about a free value (the count a fill takes) holds for every value of it. -/

open Sys2Proof Sys2Proof.Machine

/-! ### Encoding (30_encoding.md) -/

/-- R69, R70: decoding the op word of any operation an op word can carry gives it back, with the bytes after it. -/
def Obligations.DecodeOfEncode : Prop :=
  ∀ (i : Instr) (rest : List Byte), i.wellFormed = true → decode (encode i ++ rest) = .op i rest

/-- R69, R70: each op word has one meaning: what decodes to an operation is exactly its op word. -/
def Obligations.DecodedBytesAreTheEncoding : Prop :=
  ∀ (bytes : List Byte) (i : Instr) (rest : List Byte),
    decode bytes = .op i rest → i.wellFormed = true ∧ bytes = encode i ++ rest

/-- R69, R70: op words written out from the spec's formats, one of each unit and format. -/
def Obligations.SampleOpWordsDecode : Prop :=
  decode [0x03#8] = .op .rbGet [] ∧
  decode [0x01#8, 0x10#8] = .op (.rbFill 0x10#8) [] ∧
  decode [0x11#8, 0x05#8, 0x12#8] = .op (.krPush 0x05#8) [0x12#8] ∧
  decode [0x20#8, 0x34#8, 0x12#8, 0x02#8, 0xAA#8, 0xBB#8, 0x30#8] =
    .op (.crc16 0x1234#16 [0xAA#8, 0xBB#8]) [0x30#8] ∧
  decode [0x31#8, 0x0D#8] = .op (.parseDispatch 0x0D#8) []

/-- R72, with R70 (the agenda that carries the host's bytes is the model's own, log entry 4): an opcode is one of the fifteen listed or in one of R72's ranges, never both; a reserved opcode is
a one-byte op word, answered `[0xFF]`, and nothing else changes: the bytes after it stay on the port. -/
def Obligations.ReservedOpcodeAnswersIllegal : Prop :=
  (∀ opcode : Byte,
    ((0x08 ≤ opcode.toNat ∧ opcode.toNat ≤ 0x0F) ∨ (0x13 ≤ opcode.toNat ∧ opcode.toNat ≤ 0x1F) ∨
      (0x21 ≤ opcode.toNat ∧ opcode.toNat ≤ 0x2F) ∨ (0x33 ≤ opcode.toNat ∧ opcode.toNat ≤ 0xFF)) ↔
    opcode ∉ [0x00#8, 0x01#8, 0x02#8, 0x03#8, 0x04#8, 0x05#8, 0x06#8, 0x07#8, 0x10#8, 0x11#8, 0x12#8, 0x20#8,
      0x30#8, 0x31#8, 0x32#8]) ∧
  ∀ (s : State) (opcode : Byte) (rest : List Byte) (moves : List Move),
    s.params.Wf → s.CursorsInRange → s.agenda = .issue (opcode :: rest) :: moves →
    ((0x08 ≤ opcode.toNat ∧ opcode.toNat ≤ 0x0F) ∨ (0x13 ≤ opcode.toNat ∧ opcode.toNat ≤ 0x1F) ∨
      (0x21 ≤ opcode.toNat ∧ opcode.toNat ≤ 0x2F) ∨ (0x33 ≤ opcode.toNat ∧ opcode.toNat ≤ 0xFF)) →
    step s = .next { s with
      agenda := if rest = [] then moves else .issue rest :: moves
      response := [0xFF#8] }

/-- R73: bytes that end inside an op word are refused, not executed. -/
def Obligations.TruncatedOpWordRefused : Prop :=
  ∀ (s : State) (i : Instr) (bytes : List Byte) (moves : List Move),
    s.params.Wf → s.CursorsInRange → i.wellFormed = true → bytes ≠ [] → bytes <+: encode i → bytes ≠ encode i →
    s.agenda = .issue bytes :: moves → step s = .refused .truncatedOpWord

/-- R16, R35, R68: when the bytes on the host port decode to an operation, a step is that operation at the state
whose port has moved past the op word. -/
def Obligations.StepRunsTheDecodedOperation : Prop :=
  ∀ (s : State) (bytes : List Byte) (i : Instr) (rest : List Byte) (moves : List Move),
    s.params.Wf → s.CursorsInRange → s.agenda = .issue bytes :: moves → decode bytes = .op i rest →
    step s = exec i { s with agenda := if rest = [] then moves else .issue rest :: moves }

/-- R67: the transmit frame of the spec's worked example, and R66 for it: the acknowledgement of `0x0D` is `0x4D`. -/
def Obligations.TxFrameWorkedExample : Prop :=
  txFrame 0x0D#8 [0x19#8] = [0x0D#8, 0x01#8, 0x19#8, 0x2B#8, 0xAD#8] ∧ ackOf 0x0D#8 = 0x4D#8

/-- R64, R66: the class of a command byte by its range; the acknowledgement of a request carries tag `01` and the
request's operation id. -/
def Obligations.CommandByteClasses : Prop :=
  ∀ c : Byte,
    (c.toNat ≤ 0x3F → commandClass c = .request ∧ commandClass (ackOf c) = .acknowledgement ∧
      (ackOf c).toNat % 64 = c.toNat % 64) ∧
    (0x40 ≤ c.toNat → c.toNat ≤ 0x7F → commandClass c = .acknowledgement) ∧
    (c.toNat = 0x80 → commandClass c = .keyEvent) ∧
    (0x81 ≤ c.toNat → commandClass c = .undefinedTag)

/-- R76: each pseudo-operation expands to exactly the op words shown. -/
def Obligations.PseudoOperationsExpand : Prop :=
  AsmLine.rbDiscard.words = encode .rbGet ∧ AsmLine.getKey.words = encode .krPop ∧
  ∀ bytes : List Byte, (AsmLine.crcPkt bytes).words = encode (.crc16 0xFFFF#16 bytes)

/-! ### Reset, the line, and the instance (10_state.md, 70_reset_and_hazards.md) -/

/-- R240, with R37: the state right after power-on. Every cursor and `UNMATCHED` are 0, no response is pending, every
slot reads as its unspecified power-on byte, and the first op word on the host port is decoded as an opcode. That an
unspecified slot reads as the free value of its index is the model's reading (log entry 2), and so is how the host
presents an op word (log entries 4 and 7). -/
def Obligations.PowerOnResetState : Prop :=
  State.reset.rbHead = 0 ∧ State.reset.rbTail = 0 ∧ State.reset.rbPeek = 0 ∧
  State.reset.krHead = 0 ∧ State.reset.krTail = 0 ∧ State.reset.unmatched = 0#16 ∧ State.reset.response = [] ∧
  (∀ a : Nat, State.reset.rbSlot a = Config.powerOnRb a ∧ State.reset.krSlot a = Config.powerOnKr a) ∧
  ∀ i : Instr, i.wellFormed = true → step (State.reset.hostIssues (encode i)) = exec i State.reset

/-- R21, R27, R37, R240: a block reset of a running instance clears the cursors, `UNMATCHED` and the response, and
leaves the slots, the parameters and `Line.pending` alone. That a reset is a move of the agenda, and that it leaves the slots
alone, is the model's reading (log entries 4 and 9). -/
def Obligations.BlockResetMove : Prop :=
  ∀ (s : State) (moves : List Move),
    s.params.Wf → s.CursorsInRange → s.agenda = .blockReset :: moves →
    ∃ t, step s = .next t ∧ t.rbHead = 0 ∧ t.rbTail = 0 ∧ t.rbPeek = 0 ∧ t.krHead = 0 ∧ t.krTail = 0 ∧
      t.unmatched = 0#16 ∧ t.response = [] ∧ t.rb = s.rb ∧ t.kr = s.kr ∧ t.params = s.params ∧
      t.linePending = s.linePending ∧ t.agenda = moves

/-- R20, R32, R49, R222: the line's move appends to the end of `Line.pending` and changes nothing else of the block;
an idle block changes no state. The agenda is the model's own (log entry 4). -/
def Obligations.LineDeliversAndIdleBlockStays : Prop :=
  ∀ s : State, s.params.Wf → s.CursorsInRange →
    (s.agenda = [] → step s = .next s) ∧
    ∀ (bytes : List Byte) (moves : List Move), s.agenda = .deliver bytes :: moves →
      step s = .next { s with linePending := s.linePending ++ bytes, agenda := moves }

/-- R6, R7, R8, U12: an instance that violates a constraint is refused, whatever is on its port. -/
def Obligations.IllFormedInstanceRefused : Prop :=
  ∀ s : State,
    (s.params.nRb < s.params.maxData + 5 ∨ 256 < s.params.nRb ∨ s.params.nKr < 2 ∨ 256 < s.params.nKr ∨
      63 < s.params.maxCmd ∨ 250 < s.params.maxData) →
    step s = .refused .illFormedInstance

/-- R200, U11, U13: in a state of the block the only thing a step refuses is a truncated op word. -/
def Obligations.StepRefusesOnlyTruncatedWords : Prop :=
  ∀ (s : State), s.Inv →
    (∃ t, step s = .next t) ∨
    (step s = .refused .truncatedOpWord ∧
      ∃ bytes moves, s.agenda = .issue bytes :: moves ∧ bytes ≠ [] ∧ decode bytes = .truncated)

/-- R25, R28: the invariant holds at reset. -/
def Obligations.InvariantHoldsAtReset : Prop := State.reset.Inv

/-- R25, R28, R21, R27, R122: every step keeps the invariant: the cursors stay in their arrays, tail, peek and head
stay in order, the slot lists stay canonical, and every byte an operation can read has been written. -/
def Obligations.StepKeepsTheInvariant : Prop :=
  ∀ s t : State, s.Inv → step s = .next t → t.Inv

/-- R36: no step changes the configuration, in any state. -/
def Obligations.StepKeepsTheConfiguration : Prop :=
  ∀ s t : State, step s = .next t → t.params = s.params

/-- R16, R200, R201: every operation, on every operand and every state, completes in one step with status OK, and
leaves the host port's other moves alone. -/
def Obligations.EveryOperationCompletesWithStatusOk : Prop :=
  ∀ (i : Instr) (s : State), ∃ t, exec i s = .next t ∧ t.response.head? = some 0x00#8 ∧ t.agenda = s.agenda

/-- R71: the response lengths. For PARSE and PARSE_DISPATCH they depend on the result byte and, for a GOOD_MSG, on the
`data_length` byte of the response itself. -/
def Obligations.ResponseLengths : Prop :=
  ∀ s : State,
    (∀ i ∈ [Instr.rbReset, .rbSyncPeek, .rbAccept, .krReset], ∃ t, exec i s = .next t ∧ t.response.length = 1) ∧
    (∀ a : Byte, ∀ i ∈ [Instr.rbFill a, .rbAvail, .rbGet, .rbPeekAvail, .rbPeek, .krPush a, .krPop],
      ∃ t, exec i s = .next t ∧ t.response.length = 2) ∧
    (∀ (seed : Word16) (bytes : List Byte), ∀ i ∈ [Instr.crc16 seed bytes, .unmatchedRead],
      ∃ t, exec i s = .next t ∧ t.response.length = 3) ∧
    (∃ t, exec .parse s = .next t ∧
      ((t.response = [0x00#8, 0x00#8] ∨ t.response = [0x00#8, 0x01#8]) ∨
        ∃ c n rest, t.response = 0x00#8 :: 0x02#8 :: c :: n :: rest ∧
          t.response.length = 2 + 2 + n.toNat + 2)) ∧
    ∀ q : Byte, ∃ t, exec (.parseDispatch q) s = .next t ∧
      ((t.response = [0x00#8, 0x00#8, 0x00#8] ∨ t.response = [0x00#8, 0x01#8, 0x00#8]) ∨
        ∃ cls c n rest, t.response = 0x00#8 :: 0x02#8 :: cls :: c :: n :: rest ∧
          t.response.length = 3 + 2 + n.toNat + 2)

/-! ### The CRC16 engine (40_crc.md) -/

/-- R103: the 256 table entries as the rule prints them. -/
def Obligations.CrcTableAsPrinted : Prop :=
  crcTableR103.length = 256 ∧ ∀ i < 256, crcTableR103[i]? = some (crcTable i)

/-- R104: the bit-serial form equals the table form, for every byte sequence and seed. -/
def Obligations.CrcBitSerialEqualsTable : Prop :=
  ∀ (bytes : List Byte) (seed : Word16), crc16Serial bytes seed = crc16 bytes seed

/-- R105: the check value, `CRC16("123456789", 0xFFFF) = 0x906E`. -/
def Obligations.CrcCheckValue : Prop :=
  crc16 [0x31#8, 0x32#8, 0x33#8, 0x34#8, 0x35#8, 0x36#8, 0x37#8, 0x38#8, 0x39#8] 0xFFFF#16 = 0x906E#16

/-- R106: the corner cases, and the residue: a body followed by its own CRC, low byte first, gives `0x0F47`. -/
def Obligations.CrcCornersAndResidue : Prop :=
  (∀ seed : Word16, crc16 [] seed = ~~~ seed) ∧ crc16 [0x00#8] 0x0000#16 = 0xFFFF#16 ∧
  ∀ (body : List Byte) (c : Word16), c = crc16 body 0xFFFF#16 →
    crc16 (body ++ [c.extractLsb' 0 8, c.extractLsb' 8 8]) 0xFFFF#16 = 0x0F47#16

/-- R100: CRC16 responds the checksum low byte first and writes no state of the block; the response depends on the
operands alone (R107). -/
def Obligations.Crc16Responds : Prop :=
  ∀ (seed : Word16) (bytes : List Byte) (s : State),
    exec (.crc16 seed bytes) s = .next { s with
      response := [0x00#8, (crc16 bytes seed).extractLsb' 0 8, (crc16 bytes seed).extractLsb' 8 8] }

/-! ### The Receive Buffer (41_rxbuf.md) -/

/-- R111: RB_RESET empties the buffer; slots and `Line.pending` stay, and RB_AVAIL then returns 0. -/
def Obligations.RbResetEmptiesTheBuffer : Prop :=
  ∀ s : State, ∃ t, exec .rbReset s = .next t ∧
    t = { s with rbHead := 0, rbTail := 0, rbPeek := 0, response := [0x00#8] } ∧
    exec .rbAvail t = .next { t with response := [0x00#8, 0x00#8] }

/-- R112: RB_FILL takes some `k` bytes within the three bounds off the front of `Line.pending`, stores them in order
from `rb_head` on, advances `rb_head` by `k`, and responds `k`. Every other slot, the tail, the peek cursor, the Key
Ring and `UNMATCHED` stay. -/
def Obligations.RbFillTakesFromTheLine : Prop :=
  ∀ (s : State) (maxBytes : Byte), s.Inv →
    ∃ (k : Nat) (t : State),
      k ≤ maxBytes.toNat ∧ k ≤ s.params.nRb - 1 - dist s.params.nRb s.rbTail s.rbHead ∧
      k ≤ s.linePending.length ∧
      exec (.rbFill maxBytes) s = .next t ∧
      (∃ b : Byte, t.response = [0x00#8, b] ∧ b.toNat = k) ∧
      t.linePending = s.linePending.drop k ∧
      t.rbHead = (s.rbHead + k) % s.params.nRb ∧
      (∀ i, i < k → Memory.read t.rb ((s.rbHead + i) % s.params.nRb) = s.linePending[i]?) ∧
      (∀ a, (∀ i < k, a ≠ (s.rbHead + i) % s.params.nRb) → Memory.read t.rb a = Memory.read s.rb a) ∧
      t.rbTail = s.rbTail ∧ t.rbPeek = s.rbPeek ∧ t.kr = s.kr ∧ t.krHead = s.krHead ∧ t.krTail = s.krTail ∧
      t.unmatched = s.unmatched ∧ t.params = s.params ∧ t.agenda = s.agenda

/-- R15, R112: every `k` in `[0, lim]` is admitted, `k = 0` with bytes pending included (R113). How the draw is
supplied is the model's own (log entry 3). -/
def Obligations.RbFillAdmitsEveryCount : Prop :=
  ∀ (s : State) (maxBytes : Byte) (k : Nat), s.Inv → k ≤ maxBytes.toNat →
    k ≤ s.params.nRb - 1 - dist s.params.nRb s.rbTail s.rbHead → k ≤ s.linePending.length →
    ∃ (draws : List Nat) (t : State), exec (.rbFill maxBytes) { s with draws := draws } = .next t ∧
      t.response = [0x00#8, BitVec.ofNat 8 k] ∧ t.linePending = s.linePending.drop k ∧
      t.unconsumed = s.unconsumed ++ s.linePending.take k

/-- R114, R116: RB_AVAIL and RB_PEEK_AVAIL respond the circular distance from tail and from peek to head, as an exact
byte, and change nothing. -/
def Obligations.AvailCountsAreCircularDistances : Prop :=
  ∀ s : State, s.params.Wf → s.CursorsInRange →
    ∃ b p : Byte,
      exec .rbAvail s = .next { s with response := [0x00#8, b] } ∧
      b.toNat = (if s.rbTail ≤ s.rbHead then s.rbHead - s.rbTail else s.params.nRb + s.rbHead - s.rbTail) ∧
      exec .rbPeekAvail s = .next { s with response := [0x00#8, p] } ∧
      p.toNat = (if s.rbPeek ≤ s.rbHead then s.rbHead - s.rbPeek else s.params.nRb + s.rbHead - s.rbPeek)

/-- R115: RB_GET, empty and not, with the peek drag; nothing else changes. -/
def Obligations.RbGetConsumesTheOldestByte : Prop :=
  ∀ s : State,
    (s.rbTail = s.rbHead → exec .rbGet s = .next { s with response := [0x00#8, 0x00#8] }) ∧
    (s.rbTail ≠ s.rbHead → exec .rbGet s = .next { s with
      rbTail := (s.rbTail + 1) % s.params.nRb
      rbPeek := if s.rbPeek = s.rbTail then (s.rbPeek + 1) % s.params.nRb else s.rbPeek
      response := [0x00#8, s.rbSlot s.rbTail] })

/-- R118: RB_PEEK, with nothing unpeeked and otherwise; `rb_tail` is never written. -/
def Obligations.RbPeekReadsTheNextByte : Prop :=
  ∀ s : State,
    (s.rbPeek = s.rbHead → exec .rbPeek s = .next { s with response := [0x00#8, 0x00#8] }) ∧
    (s.rbPeek ≠ s.rbHead → exec .rbPeek s = .next { s with
      rbPeek := (s.rbPeek + 1) % s.params.nRb
      response := [0x00#8, s.rbSlot s.rbPeek] })

/-- R117, R119: RB_SYNC_PEEK and RB_ACCEPT move one cursor onto the other. After RB_SYNC_PEEK, RB_PEEK_AVAIL equals
RB_AVAIL; after RB_ACCEPT, RB_AVAIL equals the old RB_PEEK_AVAIL. -/
def Obligations.SyncAndAcceptMoveOneCursor : Prop :=
  ∀ s : State,
    exec .rbSyncPeek s = .next { s with rbPeek := s.rbTail, response := [0x00#8] } ∧
    exec .rbAccept s = .next { s with rbTail := s.rbPeek, response := [0x00#8] } ∧
    responses [.rbSyncPeek, .rbPeekAvail] s = [0x00#8] :: responses [.rbAvail] s ∧
    responses [.rbAccept, .rbAvail] s = [0x00#8] :: responses [.rbPeekAvail] s

/-- R110, R150, and the head of 42_keyring.md: no Receive Buffer operation, nor PARSE, reads or writes the Key Ring or
`UNMATCHED`; no Key Ring operation reads or writes the Receive Buffer or `UNMATCHED`. Stated by replacing the other
unit's state with anything: the run is the same, and what was put there stays. -/
def Obligations.UnitsDoNotInterfere : Prop :=
  (∀ (i : Instr) (s t : State) (kr : Memory) (head tail : Nat) (u : Word16),
    i ∈ [Instr.rbReset, .rbAvail, .rbGet, .rbPeekAvail, .rbSyncPeek, .rbPeek, .rbAccept, .parse] ∨
      (∃ a, i = .rbFill a) →
    exec i s = .next t →
    exec i { s with kr := kr, krHead := head, krTail := tail, unmatched := u } =
      .next { t with kr := kr, krHead := head, krTail := tail, unmatched := u }) ∧
  ∀ (i : Instr) (s t : State) (rb : Memory) (head tail peek : Nat) (line : List Byte) (u : Word16),
    i ∈ [Instr.krReset, .krPop] ∨ (∃ v, i = .krPush v) →
    exec i s = .next t →
    exec i { s with rb := rb, rbHead := head, rbTail := tail, rbPeek := peek, linePending := line, unmatched := u } =
      .next { t with rb := rb, rbHead := head, rbTail := tail, rbPeek := peek, linePending := line, unmatched := u }

/-- R120: after RB_SYNC_PEEK and any number of RB_PEEK, an RB_GET returns the byte at the original tail; with RB_ACCEPT
after `j` successful RB_PEEKs it returns the byte right after the last one peeked. -/
def Obligations.PeekAcceptIsTransactional : Prop :=
  ∀ (s : State) (j : Nat), s.Inv →
    (∀ b bs, s.unconsumed = b :: bs → ∃ t,
      runOps (.rbSyncPeek :: List.replicate j .rbPeek ++ [.rbGet]) s = .next t ∧ t.response = [0x00#8, b] ∧
      t.unconsumed = bs) ∧
    ∀ b, j < s.unconsumed.length → s.unconsumed[j]? = some b → ∃ t,
      runOps (.rbSyncPeek :: List.replicate j .rbPeek ++ [.rbAccept, .rbGet]) s = .next t ∧
      t.response = [0x00#8, b] ∧ t.unconsumed = s.unconsumed.drop (j + 1)

/-- R121: in any interleaving of fills and gets with operations that do not consume, the bytes the RB_GETs returned,
then the unconsumed bytes, then the bytes still on the line, are in that order the bytes there were. And as many
further RB_GETs as there are unconsumed bytes return exactly those, in order, and leave RB_AVAIL at 0. -/
def Obligations.FillsAndGetsKeepByteOrder : Prop :=
  ∀ (ops : List Instr) (s : State), s.Inv →
    (∀ i ∈ ops, i ≠ .rbReset ∧ i ≠ .rbAccept ∧ i ≠ .parse ∧ ∀ q, i ≠ .parseDispatch q) →
    ∃ t, runOps ops s = .next t ∧
      gotBytes ops s ++ t.unconsumed ++ t.linePending = s.unconsumed ++ s.linePending ∧
      responses (List.replicate t.unconsumed.length .rbGet ++ [.rbAvail]) t =
        t.unconsumed.map (fun b => [0x00#8, b]) ++ [[0x00#8, 0x00#8]]

/-! ### The Key Ring (42_keyring.md) -/

/-- R140: KR_RESET sets both cursors to 0 and writes nothing else. -/
def Obligations.KrResetEmptiesTheRing : Prop :=
  ∀ s : State, exec .krReset s = .next { s with krHead := 0, krTail := 0, response := [0x00#8] }

/-- R141: KR_PUSH stores the code at `kr_head` and responds 1, or drops it on a full ring and responds 0; every other
slot reads as before. -/
def Obligations.KrPushStoresOrDrops : Prop :=
  ∀ (s : State) (v : Byte),
    ((s.krHead + 1) % s.params.nKr = s.krTail →
      exec (.krPush v) s = .next { s with response := [0x00#8, 0x00#8] }) ∧
    ((s.krHead + 1) % s.params.nKr ≠ s.krTail → ∃ m : Memory,
      exec (.krPush v) s = .next { s with
        kr := m, krHead := (s.krHead + 1) % s.params.nKr, response := [0x00#8, 0x01#8] } ∧
      Memory.read m s.krHead = some v ∧ ∀ a, a ≠ s.krHead → Memory.read m a = Memory.read s.kr a)

/-- R142: KR_POP removes the oldest code, or responds the sentinel on an empty ring. -/
def Obligations.KrPopRemovesTheOldest : Prop :=
  ∀ s : State,
    (s.krHead = s.krTail → exec .krPop s = .next { s with response := [0x00#8, 0x00#8] }) ∧
    (s.krHead ≠ s.krTail → exec .krPop s = .next { s with
      krTail := (s.krTail + 1) % s.params.nKr, response := [0x00#8, s.krSlot s.krTail] })

/-- R143: from an empty ring, `N_KR - 1` pushes succeed, one more fails, and `N_KR - 1` pops return the first
`N_KR - 1` codes in order. -/
def Obligations.KeyRingIsFifoAndOverflowDropsTheNew : Prop :=
  ∀ (s : State) (codes : List Byte) (extra : Byte), s.Inv → s.krHead = s.krTail →
    codes.length = s.params.nKr - 1 →
    responses (codes.map Instr.krPush ++ [.krPush extra] ++ List.replicate codes.length .krPop) s =
      List.replicate codes.length [0x00#8, 0x01#8] ++ [[0x00#8, 0x00#8]] ++ codes.map (fun v => [0x00#8, v])

/-- R144, R27: only the Key Ring operations and PARSE_DISPATCH write the Key Ring, and PARSE_DISPATCH adds at most one
code, at the end. -/
def Obligations.KeyRingProducers : Prop :=
  ∀ (i : Instr) (s t : State), s.Inv → exec i s = .next t →
    (i ≠ .krReset → i ≠ .krPop → (∀ v, i ≠ .krPush v) → (∀ q, i ≠ .parseDispatch q) →
      t.kr = s.kr ∧ t.krHead = s.krHead ∧ t.krTail = s.krTail) ∧
    ∀ q, i = .parseDispatch q → t.keys = s.keys ∨ ∃ v, t.keys = s.keys ++ [v]

/-! ### The framer (43_framer.md) -/

/-- R152: PARSE is the byte-sequence framer `frameBytes`: its response and what it consumes are those of `frameBytes`
on the unconsumed bytes followed by what the fill took. -/
def Obligations.ParseRefinesTheByteFramer : Prop :=
  ∀ s : State, s.Inv →
    ∃ t, exec .parse s = .next t ∧ t.Inv ∧
      let k := s.fillCount s.params.fillMax
      let u := s.unconsumed ++ s.linePending.take k
      let r := frameBytes s.params u
      t.response = 0x00#8 :: r.1.code :: r.1.fields ∧
      t.unconsumed = u.drop r.2 ∧
      t.linePending = s.linePending.drop k

/-- R153, R154 to R159, R171, R205: the result, the tail and the peek cursor of one PARSE, case by case in the order
of its tests. `u` is the unconsumed bytes after the fill. -/
def Obligations.ParseCursorEffects : Prop :=
  ∀ s : State, s.Inv →
    ∃ t, exec .parse s = .next t ∧
      let n' := s.params.nRb
      let k := s.fillCount s.params.maxData
      let u := s.unconsumed ++ s.linePending.take k
      k ≤ s.params.maxData ∧ t.rbHead = (s.rbHead + k) % n' ∧
      (u.length < 4 → t.response = [0x00#8, 0x00#8] ∧ t.rbTail = s.rbTail ∧ t.rbPeek = s.rbPeek) ∧
      ∀ (c n : Byte) (rest : List Byte), u = c :: n :: rest → 4 ≤ u.length →
        (s.params.maxCmd < c.toNat % 64 →
          t.response = [0x00#8, 0x01#8] ∧ t.rbTail = (s.rbTail + 1) % n' ∧ t.rbPeek = (s.rbTail + 1) % n') ∧
        (c.toNat % 64 ≤ s.params.maxCmd → s.params.maxData < n.toNat →
          t.response = [0x00#8, 0x01#8] ∧ t.rbTail = (s.rbTail + 1) % n' ∧ t.rbPeek = (s.rbTail + 2) % n') ∧
        (c.toNat % 64 ≤ s.params.maxCmd → n.toNat ≤ s.params.maxData → u.length < n.toNat + 4 →
          t.response = [0x00#8, 0x00#8] ∧ t.rbTail = s.rbTail ∧ t.rbPeek = (s.rbTail + 2) % n') ∧
        (c.toNat % 64 ≤ s.params.maxCmd → n.toNat ≤ s.params.maxData →
          ∀ (d more : List Byte) (lo hi : Byte), rest = d ++ lo :: hi :: more → d.length = n.toNat →
          (crc16 (c :: n :: d) 0xFFFF#16 = le16 lo hi →
            t.response = 0x00#8 :: 0x02#8 :: c :: n :: d ++ [lo, hi] ∧
            t.rbTail = (s.rbTail + (n.toNat + 4)) % n' ∧ t.rbPeek = (s.rbTail + (n.toNat + 4)) % n') ∧
          (crc16 (c :: n :: d) 0xFFFF#16 ≠ le16 lo hi →
            t.response = [0x00#8, 0x01#8] ∧
            t.rbTail = (s.rbTail + 1) % n' ∧ t.rbPeek = (s.rbTail + (n.toNat + 4)) % n'))

/-- R150, R160: the frame of PARSE and PARSE_DISPATCH on the Receive Buffer side: slots outside those the fill stored
read as before; PARSE leaves the Key Ring and `UNMATCHED` alone. -/
def Obligations.ParseFrame : Prop :=
  ∀ (i : Instr) (s : State), s.Inv → i = .parse ∨ (∃ q, i = .parseDispatch q) →
    ∃ t, exec i s = .next t ∧
      t.rbHead = (s.rbHead + s.fillCount s.params.maxData) % s.params.nRb ∧
      t.linePending = s.linePending.drop (s.fillCount s.params.maxData) ∧
      (∀ a, (∀ j < s.fillCount s.params.maxData, a ≠ (s.rbHead + j) % s.params.nRb) →
        Memory.read t.rb a = Memory.read s.rb a) ∧
      t.params = s.params ∧ t.agenda = s.agenda ∧
      (i = .parse → t.kr = s.kr ∧ t.krHead = s.krHead ∧ t.krTail = s.krTail ∧ t.unmatched = s.unmatched)

/-- R166: with at least `MAX_DATA + 4` unconsumed bytes after the fill, PARSE does not respond GIVE_UP, and consumes
at least one byte. -/
def Obligations.ParseProgress : Prop :=
  ∀ s : State, s.Inv →
    s.params.maxData + 4 ≤ (s.unconsumed ++ s.linePending.take (s.fillCount s.params.maxData)).length →
    ∃ t, exec .parse s = .next t ∧ (t.response.getD 1 0x00#8 = 0x01#8 ∨ t.response.getD 1 0x00#8 = 0x02#8) ∧
      t.unconsumed.length < (s.unconsumed ++ s.linePending.take (s.fillCount s.params.maxData)).length

/-- R167: each PARSE consumes nothing (GIVE_UP), exactly one byte (TRY_AGAIN), or exactly the bytes of the packet it
returns (GOOD_MSG), and those are its response. -/
def Obligations.ParseBoundedDiscard : Prop :=
  ∀ s : State, s.Inv →
    ∃ t, exec .parse s = .next t ∧
      let u := s.unconsumed ++ s.linePending.take (s.fillCount s.params.maxData)
      (t.response = [0x00#8, 0x00#8] ∧ t.unconsumed = u) ∨
      (t.response = [0x00#8, 0x01#8] ∧ ∃ b, u = b :: t.unconsumed) ∨
      ∃ (c n : Byte) (rest : List Byte), t.response = 0x00#8 :: 0x02#8 :: c :: n :: rest ∧
        rest.length = n.toNat + 2 ∧ u = c :: n :: rest ++ t.unconsumed

/-- R108, R106, R155, R156: what PARSE returns as GOOD_MSG has a command id and a length within the bounds, and the
residue of a body followed by its own CRC. -/
def Obligations.GoodMessagesAreSound : Prop :=
  ∀ (s t : State) (c n : Byte) (rest : List Byte), s.Inv → exec .parse s = .next t →
    t.response = 0x00#8 :: 0x02#8 :: c :: n :: rest →
    c.toNat % 64 ≤ s.params.maxCmd ∧ n.toNat ≤ s.params.maxData ∧ rest.length = n.toNat + 2 ∧
      crc16 (c :: n :: rest) 0xFFFF#16 = 0x0F47#16

/-- R67, R159: a transmit frame at the front of the unconsumed bytes, with an accepted id and length, is framed by the
next PARSE, whatever the type tag (R64) and whatever follows; its bytes are the response, and exactly they are
consumed. -/
def Obligations.TxFrameIsFramed : Prop :=
  ∀ (s : State) (q : Byte) (d more : List Byte), s.Inv →
    q.toNat % 64 ≤ s.params.maxCmd → d.length ≤ s.params.maxData →
    s.unconsumed ++ s.linePending.take (s.fillCount s.params.maxData) = txFrame q d ++ more →
    ∃ t, exec .parse s = .next t ∧ t.response = 0x00#8 :: 0x02#8 :: txFrame q d ∧ t.unconsumed = more

/-- R168, in the form 90_conflicts.md C3 leaves it: garbage whose every byte fails the command test costs exactly one
TRY_AGAIN a byte, and what stands behind it is then at the tail. -/
def Obligations.GarbageCostsOneTryAgainPerByte : Prop :=
  ∀ (g : List Byte) (s : State) (rest : List Byte), s.Inv → s.unconsumed = g ++ rest → 3 ≤ rest.length →
    (∀ b ∈ g, s.params.maxCmd < b.toNat % 64) →
    responses (List.replicate g.length .parse) s = List.replicate g.length [0x00#8, 0x01#8] ∧
    ∃ t taken, runOps (List.replicate g.length .parse) s = .next t ∧ t.unconsumed = rest ++ taken ∧
      taken ++ t.linePending = s.linePending

/-- R160 to R164: PARSE_DISPATCH is PARSE and then the classification of a good packet: the key-event test first, then
the acknowledgement test, else OTHER. `t` is where PARSE leaves the block. A command
`0x40 | q` of type tag `11` is OTHER, as R74 says (log entry 14). -/
def Obligations.DispatchClassifiesTheParse : Prop :=
  ∀ (s : State) (q : Byte), ∃ t u, exec .parse s = .next t ∧ exec (.parseDispatch q) s = .next u ∧
    (∀ r, t.response = [0x00#8, r] → u = { t with response := [0x00#8, r, 0x00#8] }) ∧
    ∀ (c n : Byte) (rest : List Byte), t.response = 0x00#8 :: 0x02#8 :: c :: n :: rest →
      (c = 0x80#8 → n = 0x00#8 →
        u = { t with response := 0x00#8 :: 0x02#8 :: 0x03#8 :: c :: n :: rest }) ∧
      (c = 0x80#8 → n ≠ 0x00#8 → ∃ v rest', rest = v :: rest' ∧
        ((t.krHead + 1) % t.params.nKr = t.krTail →
          u = { t with response := 0x00#8 :: 0x02#8 :: 0x02#8 :: c :: n :: rest }) ∧
        ((t.krHead + 1) % t.params.nKr ≠ t.krTail →
          u = { t with
            kr := Memory.write t.kr t.krHead v
            krHead := (t.krHead + 1) % t.params.nKr
            response := 0x00#8 :: 0x02#8 :: 0x01#8 :: c :: n :: rest })) ∧
      (c ≠ 0x80#8 → c = (0x40#8 ||| q) → c.toNat < 0xC0 →
        u = { t with response := 0x00#8 :: 0x02#8 :: 0x04#8 :: c :: n :: rest }) ∧
      (c ≠ 0x80#8 → (c ≠ (0x40#8 ||| q) ∨ 0xC0 ≤ c.toNat) →
        u = { t with
          unmatched := t.unmatched + 1#16
          response := 0x00#8 :: 0x02#8 :: 0x05#8 :: c :: n :: rest })

/-- R160, R161, R162: a key event and an acknowledgement of any request cannot both match. So a PARSE_DISPATCH that
answers one of the key classes, ACK or OTHER returns a packet whose command passes exactly the test of that class. A
packet of type tag `11` passes neither test, also when it equals `0x40 | q` (R74, log entry 14). -/
def Obligations.KeyEventIsNoAcknowledgement : Prop :=
  (∀ q : Byte, ackOf q ≠ keyEventCmd) ∧
  ∀ (q : Byte) (s t : State) (cls c : Byte) (rest : List Byte),
    exec (.parseDispatch q) s = .next t → t.response = 0x00#8 :: 0x02#8 :: cls :: c :: rest →
    (cls ∈ [PacketClass.keyPushed.code, PacketClass.keyDropped.code, PacketClass.keyNoData.code] ↔
      c = keyEventCmd ∧ c ≠ ackOf q) ∧
    (cls = PacketClass.ack.code ↔ c = ackOf q ∧ c ≠ keyEventCmd ∧ c.toNat < 0xC0) ∧
    (cls = PacketClass.other.code ↔ c ≠ keyEventCmd ∧ (c ≠ ackOf q ∨ 0xC0 ≤ c.toNat))

/-- R64, R74, R163: a good packet whose command byte is undefined, `0x81..0xBF` or type tag `11`, is OTHER and counted in
`UNMATCHED`, whatever `q` is, also when it equals `0x40 | q` (log entry 14). -/
def Obligations.UndefinedTagsAreOther : Prop :=
  ∀ (q : Byte) (s t : State) (cls c : Byte) (rest : List Byte),
    exec (.parseDispatch q) s = .next t → t.response = 0x00#8 :: 0x02#8 :: cls :: c :: rest → 0x81 ≤ c.toNat →
    cls = PacketClass.other.code ∧ t.unmatched = s.unmatched + 1#16

/-- R165: UNMATCHED_READ responds the counter low byte first and changes nothing. -/
def Obligations.UnmatchedReadResponds : Prop :=
  ∀ s : State, exec .unmatchedRead s = .next { s with
    response := [0x00#8, s.unmatched.extractLsb' 0 8, s.unmatched.extractLsb' 8 8] }

/-- R31, R163 (and log entry 14 for which packets are OTHER): no operation changes `UNMATCHED` but a PARSE_DISPATCH that
answers class OTHER, which adds one modulo 2^16. -/
def Obligations.UnmatchedCountsExactlyOther : Prop :=
  ∀ (i : Instr) (s : State), ∃ t, exec i s = .next t ∧
    t.unmatched = s.unmatched +
      (if (∃ q, i = .parseDispatch q) ∧ t.response.getD 1 0x00#8 = 0x02#8 ∧ t.response.getD 2 0x00#8 = 0x05#8
        then 1#16 else 0#16)

/-! ### The host protocol (60_exceptions.md section 4, 70_reset_and_hazards.md) -/

/-- R241: the host's RB_RESET and KR_RESET empty both units and touch neither `UNMATCHED` nor `Line.pending`. -/
def Obligations.HostInitEmptiesBothUnits : Prop :=
  ∀ s : State, ∃ t, runOps hostInit s = .next t ∧ t.rbHead = 0 ∧ t.rbTail = 0 ∧ t.rbPeek = 0 ∧ t.krHead = 0 ∧
    t.krTail = 0 ∧ t.unmatched = s.unmatched ∧ t.linePending = s.linePending ∧ t.rb = s.rb ∧ t.kr = s.kr

/-- R213, R216: a SEND that returns TimedOut ended on a GIVE_UP, which consumed nothing. `s'` is where the loop stands
after the ticks before its last one: the last PARSE_DISPATCH starts there, with the last tick's bytes on the line, and
afterwards the unconsumed bytes and then the line's are, in order, those it started with. The host model is log
entry 8. -/
def Obligations.TimeoutKeepsTheLateReply : Prop :=
  ∀ (h : HostParams) (q : Byte) (deadlineAt : Nat) (ticks : List Tick) (now : Nat) (s t : State), s.Inv →
    sendLoop h q deadlineAt ticks now s = .returned .timedOut t →
    t.Inv ∧ t.response = [0x00#8, 0x00#8, 0x00#8] ∧
    ∃ (earlier later : List Tick) (tick : Tick) (s' : State), ticks = earlier ++ tick :: later ∧
      sendLoop h q deadlineAt earlier now s = .running s' ∧
      exec (.parseDispatch q) (s'.lineAppend tick.arrived) = .next t ∧
      t.unconsumed ++ t.linePending = s'.unconsumed ++ s'.linePending ++ tick.arrived

/-- R215: key-event siphoning. From an empty buffer, line and ring, a device whose reply stream is one key event with
code `v` and then the acknowledgement of `q`, however it arrives and however the fills take it: if SEND returns
Acknowledged, the ring holds exactly `v`, and KR_POP returns `v` and then the sentinel. The host model is log entry 8. -/
def Obligations.KeyEventSiphoning : Prop :=
  ∀ (h : HostParams) (q v : Byte) (d : List Byte) (deadlineAt : Nat) (ticks : List Tick) (now : Nat) (s t : State),
    s.Inv → h.mode = .wait → s.rbTail = s.rbHead → s.linePending = [] → s.krHead = s.krTail →
    1 ≤ s.params.maxData → d.length ≤ s.params.maxData → q.toNat ≤ s.params.maxCmd →
    ticks.flatMap Tick.arrived = txFrame 0x80#8 [v] ++ txFrame (0x40#8 ||| q) d →
    sendLoop h q deadlineAt ticks now s = .returned .acknowledged t →
    t.keys = [v] ∧ responses [.krPop, .krPop] t = [[0x00#8, v], [0x00#8, 0x00#8]]
end

