-- ==== Sys2Proof/Laws/Cursor.lean ====
section
/-! SUPPORT. Cursor arithmetic (00_scope.md R14): `inc` and `dist` of cursors in range, as case splits that linear
arithmetic can use. -/

namespace Sys2Proof.Machine

theorem inc_eq_ite {n c : Nat} (h : c < n) : inc n c = if c + 1 = n then 0 else c + 1 := by
  unfold inc
  split
  · next e => rw [e, Nat.mod_self]
  · exact Nat.mod_eq_of_lt (by omega)

theorem inc_lt {n c : Nat} (h : 0 < n) : inc n c < n := Nat.mod_lt _ h

theorem dist_eq_ite {n a b : Nat} (ha : a < n) (hb : b < n) :
    dist n a b = if a ≤ b then b - a else n + b - a := by
  unfold dist
  split
  · rw [Int.emod_eq_of_lt (by omega) (by omega)]; omega
  · rw [← Int.add_emod_right, Int.emod_eq_of_lt (by omega) (by omega)]; omega

theorem dist_lt {n a b : Nat} (h : 0 < n) : dist n a b < n := by
  unfold dist
  have := Int.emod_lt_of_pos ((b : Int) - a) (show (0 : Int) < n by omega)
  have := Int.emod_nonneg ((b : Int) - a) (show (n : Int) ≠ 0 by omega)
  omega

@[simp] theorem dist_self (n a : Nat) : dist n a a = 0 := by simp [dist]

theorem dist_eq_zero {n a b : Nat} (ha : a < n) (hb : b < n) : dist n a b = 0 ↔ a = b := by
  rw [dist_eq_ite ha hb]; split <;> omega

/-- Walking `k` slots on from a cursor, in or past the end of the array. -/
theorem wrap_eq_ite {n c k : Nat} (hc : c < n) (hk : k < n) :
    (c + k) % n = if c + k < n then c + k else c + k - n := by
  split
  · exact Nat.mod_eq_of_lt ‹_›
  · rw [Nat.mod_eq_sub_mod (by omega), Nat.mod_eq_of_lt (by omega)]

theorem inc_add_mod (n c k : Nat) : (inc n c + k) % n = (c + (k + 1)) % n := by
  rw [inc, Nat.mod_add_mod]; congr 1; omega

/-- The head is `dist tail head` slots on from the tail. -/
theorem add_dist {n a b : Nat} (ha : a < n) (hb : b < n) : (a + dist n a b) % n = b := by
  rw [wrap_eq_ite ha (dist_lt (by omega)), dist_eq_ite ha hb]
  split <;> split <;> omega

/-- The distance to a cursor reached by walking on. -/
theorem dist_add {n a k : Nat} (ha : a < n) (hk : k < n) : dist n a ((a + k) % n) = k := by
  rw [dist_eq_ite ha (Nat.mod_lt _ (by omega)), wrap_eq_ite ha hk]
  split <;> split <;> omega

end Sys2Proof.Machine
end

