-- ==== Sys2Proof/Laws/Memory.lean ====
section
/-! SUPPORT. The slot lists: a read after a write, and that a write keeps the canonical form. -/

namespace Sys2Proof.Machine

@[simp] theorem Memory.read_write_same (m : Memory) (a : Nat) (v : Byte) :
    Memory.read (Memory.write m a v) a = some v := by
  induction m with
  | nil => simp [Memory.write, Memory.read]
  | cons c m ih =>
    obtain ⟨i, w⟩ := c
    by_cases h1 : a < i
    · simp [Memory.write, Memory.read, h1]
    · by_cases h2 : a = i
      · simp [Memory.write, Memory.read, h2]
      · simp [Memory.write, Memory.read, h1, h2, ih, Ne.symm h2]

theorem Memory.read_write_other {m : Memory} {a b : Nat} {v : Byte} (h : b ≠ a) :
    Memory.read (Memory.write m a v) b = Memory.read m b := by
  induction m with
  | nil => simp [Memory.write, Memory.read, Ne.symm h]
  | cons c m ih =>
    obtain ⟨i, w⟩ := c
    by_cases h1 : a < i
    · simp [Memory.write, Memory.read, h1, Ne.symm h]
    · by_cases h2 : a = i
      · subst h2; simp [Memory.write, Memory.read, Ne.symm h]
      · simp [Memory.write, Memory.read, h1, h2, ih]

/-- The slots listed after a write: the one written, and those listed before. -/
theorem Memory.mem_write {m : Memory} {a : Nat} {v : Byte} {c : Host.Cell} (h : c ∈ Memory.write m a v) :
    c = (a, v) ∨ c ∈ m := by
  induction m with
  | nil => simpa [Memory.write] using h
  | cons d m ih =>
    obtain ⟨i, w⟩ := d
    by_cases h1 : a < i
    · simpa [Memory.write, h1] using h
    · by_cases h2 : a = i
      · simp [Memory.write, h2] at h
        rcases h with h | h <;> simp [h, h2]
      · simp [Memory.write, h1, h2] at h
        rcases h with h | h
        · simp [h]
        · rcases ih h with h | h <;> simp [h]

/-- A write keeps the canonical form. -/
theorem Memory.write_wf {m : Memory} (a : Nat) (v : Byte) (h : Memory.wf m) : Memory.wf (Memory.write m a v) := by
  induction m with
  | nil => simp [Memory.write, Memory.wf]
  | cons d m ih =>
    obtain ⟨i, w⟩ := d
    have hd := List.pairwise_cons.1 h
    by_cases h1 : a < i
    · simp only [Memory.write, h1, if_true]
      refine List.pairwise_cons.2 ⟨fun c hc => ?_, h⟩
      rcases List.mem_cons.1 hc with rfl | hc
      · exact h1
      · exact lt_trans h1 (hd.1 c hc)
    · by_cases h2 : a = i
      · subst h2
        simp only [Memory.write, lt_irrefl, if_false, if_true]
        exact List.pairwise_cons.2 hd
      · simp only [Memory.write, h1, h2, if_false]
        refine List.pairwise_cons.2 ⟨fun c hc => ?_, ih hd.2⟩
        rcases Memory.mem_write hc with rfl | hc
        · show i < a
          omega
        · exact hd.1 c hc

/-- A write into the array lists only slots of the array. -/
theorem Memory.write_slots {m : Memory} {n a : Nat} (v : Byte) (ha : a < n) (h : ∀ c ∈ m, c.1 < n) :
    ∀ c ∈ Memory.write m a v, c.1 < n := by
  intro c hc
  rcases Memory.mem_write hc with rfl | hc
  · exact ha
  · exact h c hc

/-- A slot once written stays written. -/
theorem Memory.write_isSome {m : Memory} {a b : Nat} {v : Byte} (h : (Memory.read m b).isSome) :
    (Memory.read (Memory.write m a v) b).isSome := by
  by_cases e : b = a
  · simp [e]
  · rwa [Memory.read_write_other e]

end Sys2Proof.Machine
end

