-- ==== Sys2Proof/Laws/State.lean ====
section
/-! SUPPORT. Beside State: one lemma per field for every named update, so that no proof unfolds one. -/

namespace Sys2Proof.Machine

variable (s : State)


/-! ### respond -/

@[simp] theorem State.respond_params (fs : List Byte) : (s.respond fs).params = s.params := rfl
@[simp] theorem State.respond_rb (fs : List Byte) : (s.respond fs).rb = s.rb := rfl
@[simp] theorem State.respond_rbHead (fs : List Byte) : (s.respond fs).rbHead = s.rbHead := rfl
@[simp] theorem State.respond_rbTail (fs : List Byte) : (s.respond fs).rbTail = s.rbTail := rfl
@[simp] theorem State.respond_rbPeek (fs : List Byte) : (s.respond fs).rbPeek = s.rbPeek := rfl
@[simp] theorem State.respond_kr (fs : List Byte) : (s.respond fs).kr = s.kr := rfl
@[simp] theorem State.respond_krHead (fs : List Byte) : (s.respond fs).krHead = s.krHead := rfl
@[simp] theorem State.respond_krTail (fs : List Byte) : (s.respond fs).krTail = s.krTail := rfl
@[simp] theorem State.respond_unmatched (fs : List Byte) : (s.respond fs).unmatched = s.unmatched := rfl
@[simp] theorem State.respond_linePending (fs : List Byte) : (s.respond fs).linePending = s.linePending := rfl
@[simp] theorem State.respond_response (fs : List Byte) : (s.respond fs).response = statusOk :: fs := rfl
@[simp] theorem State.respond_agenda (fs : List Byte) : (s.respond fs).agenda = s.agenda := rfl
@[simp] theorem State.respond_draws (fs : List Byte) : (s.respond fs).draws = s.draws := rfl
@[simp] theorem State.respond_drawCount (fs : List Byte) : (s.respond fs).drawCount = s.drawCount := rfl

/-! ### respondIllegal -/

@[simp] theorem State.respondIllegal_params : (s.respondIllegal).params = s.params := rfl
@[simp] theorem State.respondIllegal_rb : (s.respondIllegal).rb = s.rb := rfl
@[simp] theorem State.respondIllegal_rbHead : (s.respondIllegal).rbHead = s.rbHead := rfl
@[simp] theorem State.respondIllegal_rbTail : (s.respondIllegal).rbTail = s.rbTail := rfl
@[simp] theorem State.respondIllegal_rbPeek : (s.respondIllegal).rbPeek = s.rbPeek := rfl
@[simp] theorem State.respondIllegal_kr : (s.respondIllegal).kr = s.kr := rfl
@[simp] theorem State.respondIllegal_krHead : (s.respondIllegal).krHead = s.krHead := rfl
@[simp] theorem State.respondIllegal_krTail : (s.respondIllegal).krTail = s.krTail := rfl
@[simp] theorem State.respondIllegal_unmatched : (s.respondIllegal).unmatched = s.unmatched := rfl
@[simp] theorem State.respondIllegal_linePending : (s.respondIllegal).linePending = s.linePending := rfl
@[simp] theorem State.respondIllegal_response : (s.respondIllegal).response = [statusIllegal] := rfl
@[simp] theorem State.respondIllegal_agenda : (s.respondIllegal).agenda = s.agenda := rfl
@[simp] theorem State.respondIllegal_draws : (s.respondIllegal).draws = s.draws := rfl
@[simp] theorem State.respondIllegal_drawCount : (s.respondIllegal).drawCount = s.drawCount := rfl

/-! ### blockReset -/

@[simp] theorem State.blockReset_params : (s.blockReset).params = s.params := rfl
@[simp] theorem State.blockReset_rb : (s.blockReset).rb = s.rb := rfl
@[simp] theorem State.blockReset_rbHead : (s.blockReset).rbHead = 0 := rfl
@[simp] theorem State.blockReset_rbTail : (s.blockReset).rbTail = 0 := rfl
@[simp] theorem State.blockReset_rbPeek : (s.blockReset).rbPeek = 0 := rfl
@[simp] theorem State.blockReset_kr : (s.blockReset).kr = s.kr := rfl
@[simp] theorem State.blockReset_krHead : (s.blockReset).krHead = 0 := rfl
@[simp] theorem State.blockReset_krTail : (s.blockReset).krTail = 0 := rfl
@[simp] theorem State.blockReset_unmatched : (s.blockReset).unmatched = 0#16 := rfl
@[simp] theorem State.blockReset_linePending : (s.blockReset).linePending = s.linePending := rfl
@[simp] theorem State.blockReset_response : (s.blockReset).response = [] := rfl
@[simp] theorem State.blockReset_agenda : (s.blockReset).agenda = s.agenda := rfl
@[simp] theorem State.blockReset_draws : (s.blockReset).draws = s.draws := rfl
@[simp] theorem State.blockReset_drawCount : (s.blockReset).drawCount = s.drawCount := rfl

/-! ### lineAppend -/

@[simp] theorem State.lineAppend_params (bs : List Byte) : (s.lineAppend bs).params = s.params := rfl
@[simp] theorem State.lineAppend_rb (bs : List Byte) : (s.lineAppend bs).rb = s.rb := rfl
@[simp] theorem State.lineAppend_rbHead (bs : List Byte) : (s.lineAppend bs).rbHead = s.rbHead := rfl
@[simp] theorem State.lineAppend_rbTail (bs : List Byte) : (s.lineAppend bs).rbTail = s.rbTail := rfl
@[simp] theorem State.lineAppend_rbPeek (bs : List Byte) : (s.lineAppend bs).rbPeek = s.rbPeek := rfl
@[simp] theorem State.lineAppend_kr (bs : List Byte) : (s.lineAppend bs).kr = s.kr := rfl
@[simp] theorem State.lineAppend_krHead (bs : List Byte) : (s.lineAppend bs).krHead = s.krHead := rfl
@[simp] theorem State.lineAppend_krTail (bs : List Byte) : (s.lineAppend bs).krTail = s.krTail := rfl
@[simp] theorem State.lineAppend_unmatched (bs : List Byte) : (s.lineAppend bs).unmatched = s.unmatched := rfl
@[simp] theorem State.lineAppend_linePending (bs : List Byte) : (s.lineAppend bs).linePending = s.linePending ++ bs := rfl
@[simp] theorem State.lineAppend_response (bs : List Byte) : (s.lineAppend bs).response = s.response := rfl
@[simp] theorem State.lineAppend_agenda (bs : List Byte) : (s.lineAppend bs).agenda = s.agenda := rfl
@[simp] theorem State.lineAppend_draws (bs : List Byte) : (s.lineAppend bs).draws = s.draws := rfl
@[simp] theorem State.lineAppend_drawCount (bs : List Byte) : (s.lineAppend bs).drawCount = s.drawCount := rfl

/-! ### rbStore -/

@[simp] theorem State.rbStore_params (v : Byte) : (s.rbStore v).params = s.params := rfl
@[simp] theorem State.rbStore_rb (v : Byte) : (s.rbStore v).rb = Memory.write s.rb s.rbHead v := rfl
@[simp] theorem State.rbStore_rbHead (v : Byte) : (s.rbStore v).rbHead = inc s.params.nRb s.rbHead := rfl
@[simp] theorem State.rbStore_rbTail (v : Byte) : (s.rbStore v).rbTail = s.rbTail := rfl
@[simp] theorem State.rbStore_rbPeek (v : Byte) : (s.rbStore v).rbPeek = s.rbPeek := rfl
@[simp] theorem State.rbStore_kr (v : Byte) : (s.rbStore v).kr = s.kr := rfl
@[simp] theorem State.rbStore_krHead (v : Byte) : (s.rbStore v).krHead = s.krHead := rfl
@[simp] theorem State.rbStore_krTail (v : Byte) : (s.rbStore v).krTail = s.krTail := rfl
@[simp] theorem State.rbStore_unmatched (v : Byte) : (s.rbStore v).unmatched = s.unmatched := rfl
@[simp] theorem State.rbStore_linePending (v : Byte) : (s.rbStore v).linePending = s.linePending := rfl
@[simp] theorem State.rbStore_response (v : Byte) : (s.rbStore v).response = s.response := rfl
@[simp] theorem State.rbStore_agenda (v : Byte) : (s.rbStore v).agenda = s.agenda := rfl
@[simp] theorem State.rbStore_draws (v : Byte) : (s.rbStore v).draws = s.draws := rfl
@[simp] theorem State.rbStore_drawCount (v : Byte) : (s.rbStore v).drawCount = s.drawCount := rfl

/-! ### rbSyncPeek -/

@[simp] theorem State.rbSyncPeek_params : (s.rbSyncPeek).params = s.params := rfl
@[simp] theorem State.rbSyncPeek_rb : (s.rbSyncPeek).rb = s.rb := rfl
@[simp] theorem State.rbSyncPeek_rbHead : (s.rbSyncPeek).rbHead = s.rbHead := rfl
@[simp] theorem State.rbSyncPeek_rbTail : (s.rbSyncPeek).rbTail = s.rbTail := rfl
@[simp] theorem State.rbSyncPeek_rbPeek : (s.rbSyncPeek).rbPeek = s.rbTail := rfl
@[simp] theorem State.rbSyncPeek_kr : (s.rbSyncPeek).kr = s.kr := rfl
@[simp] theorem State.rbSyncPeek_krHead : (s.rbSyncPeek).krHead = s.krHead := rfl
@[simp] theorem State.rbSyncPeek_krTail : (s.rbSyncPeek).krTail = s.krTail := rfl
@[simp] theorem State.rbSyncPeek_unmatched : (s.rbSyncPeek).unmatched = s.unmatched := rfl
@[simp] theorem State.rbSyncPeek_linePending : (s.rbSyncPeek).linePending = s.linePending := rfl
@[simp] theorem State.rbSyncPeek_response : (s.rbSyncPeek).response = s.response := rfl
@[simp] theorem State.rbSyncPeek_agenda : (s.rbSyncPeek).agenda = s.agenda := rfl
@[simp] theorem State.rbSyncPeek_draws : (s.rbSyncPeek).draws = s.draws := rfl
@[simp] theorem State.rbSyncPeek_drawCount : (s.rbSyncPeek).drawCount = s.drawCount := rfl

/-! ### rbAccept -/

@[simp] theorem State.rbAccept_params : (s.rbAccept).params = s.params := rfl
@[simp] theorem State.rbAccept_rb : (s.rbAccept).rb = s.rb := rfl
@[simp] theorem State.rbAccept_rbHead : (s.rbAccept).rbHead = s.rbHead := rfl
@[simp] theorem State.rbAccept_rbTail : (s.rbAccept).rbTail = s.rbPeek := rfl
@[simp] theorem State.rbAccept_rbPeek : (s.rbAccept).rbPeek = s.rbPeek := rfl
@[simp] theorem State.rbAccept_kr : (s.rbAccept).kr = s.kr := rfl
@[simp] theorem State.rbAccept_krHead : (s.rbAccept).krHead = s.krHead := rfl
@[simp] theorem State.rbAccept_krTail : (s.rbAccept).krTail = s.krTail := rfl
@[simp] theorem State.rbAccept_unmatched : (s.rbAccept).unmatched = s.unmatched := rfl
@[simp] theorem State.rbAccept_linePending : (s.rbAccept).linePending = s.linePending := rfl
@[simp] theorem State.rbAccept_response : (s.rbAccept).response = s.response := rfl
@[simp] theorem State.rbAccept_agenda : (s.rbAccept).agenda = s.agenda := rfl
@[simp] theorem State.rbAccept_draws : (s.rbAccept).draws = s.draws := rfl
@[simp] theorem State.rbAccept_drawCount : (s.rbAccept).drawCount = s.drawCount := rfl

/-! ### hostIssues -/

@[simp] theorem State.hostIssues_params (bs : List Byte) : (s.hostIssues bs).params = s.params := rfl
@[simp] theorem State.hostIssues_rb (bs : List Byte) : (s.hostIssues bs).rb = s.rb := rfl
@[simp] theorem State.hostIssues_rbHead (bs : List Byte) : (s.hostIssues bs).rbHead = s.rbHead := rfl
@[simp] theorem State.hostIssues_rbTail (bs : List Byte) : (s.hostIssues bs).rbTail = s.rbTail := rfl
@[simp] theorem State.hostIssues_rbPeek (bs : List Byte) : (s.hostIssues bs).rbPeek = s.rbPeek := rfl
@[simp] theorem State.hostIssues_kr (bs : List Byte) : (s.hostIssues bs).kr = s.kr := rfl
@[simp] theorem State.hostIssues_krHead (bs : List Byte) : (s.hostIssues bs).krHead = s.krHead := rfl
@[simp] theorem State.hostIssues_krTail (bs : List Byte) : (s.hostIssues bs).krTail = s.krTail := rfl
@[simp] theorem State.hostIssues_unmatched (bs : List Byte) : (s.hostIssues bs).unmatched = s.unmatched := rfl
@[simp] theorem State.hostIssues_linePending (bs : List Byte) : (s.hostIssues bs).linePending = s.linePending := rfl
@[simp] theorem State.hostIssues_response (bs : List Byte) : (s.hostIssues bs).response = s.response := rfl
@[simp] theorem State.hostIssues_agenda (bs : List Byte) : (s.hostIssues bs).agenda = .issue bs :: s.agenda := rfl
@[simp] theorem State.hostIssues_draws (bs : List Byte) : (s.hostIssues bs).draws = s.draws := rfl
@[simp] theorem State.hostIssues_drawCount (bs : List Byte) : (s.hostIssues bs).drawCount = s.drawCount := rfl

/-! ### afterDraw -/

@[simp] theorem State.afterDraw_params : (s.afterDraw).params = s.params := by unfold State.afterDraw; split <;> simp_all
@[simp] theorem State.afterDraw_rb : (s.afterDraw).rb = s.rb := by unfold State.afterDraw; split <;> simp_all
@[simp] theorem State.afterDraw_rbHead : (s.afterDraw).rbHead = s.rbHead := by unfold State.afterDraw; split <;> simp_all
@[simp] theorem State.afterDraw_rbTail : (s.afterDraw).rbTail = s.rbTail := by unfold State.afterDraw; split <;> simp_all
@[simp] theorem State.afterDraw_rbPeek : (s.afterDraw).rbPeek = s.rbPeek := by unfold State.afterDraw; split <;> simp_all
@[simp] theorem State.afterDraw_kr : (s.afterDraw).kr = s.kr := by unfold State.afterDraw; split <;> simp_all
@[simp] theorem State.afterDraw_krHead : (s.afterDraw).krHead = s.krHead := by unfold State.afterDraw; split <;> simp_all
@[simp] theorem State.afterDraw_krTail : (s.afterDraw).krTail = s.krTail := by unfold State.afterDraw; split <;> simp_all
@[simp] theorem State.afterDraw_unmatched : (s.afterDraw).unmatched = s.unmatched := by unfold State.afterDraw; split <;> simp_all
@[simp] theorem State.afterDraw_linePending : (s.afterDraw).linePending = s.linePending := by unfold State.afterDraw; split <;> simp_all
@[simp] theorem State.afterDraw_response : (s.afterDraw).response = s.response := by unfold State.afterDraw; split <;> simp_all
@[simp] theorem State.afterDraw_agenda : (s.afterDraw).agenda = s.agenda := by unfold State.afterDraw; split <;> simp_all
@[simp] theorem State.afterDraw_draws : (s.afterDraw).draws = s.draws.tail := by unfold State.afterDraw; split <;> simp_all

/-! ### rbGet -/

@[simp] theorem State.rbGet_params : (s.rbGet).params = s.params := by unfold State.rbGet; split <;> rfl
@[simp] theorem State.rbGet_rb : (s.rbGet).rb = s.rb := by unfold State.rbGet; split <;> rfl
@[simp] theorem State.rbGet_rbHead : (s.rbGet).rbHead = s.rbHead := by unfold State.rbGet; split <;> rfl
@[simp] theorem State.rbGet_kr : (s.rbGet).kr = s.kr := by unfold State.rbGet; split <;> rfl
@[simp] theorem State.rbGet_krHead : (s.rbGet).krHead = s.krHead := by unfold State.rbGet; split <;> rfl
@[simp] theorem State.rbGet_krTail : (s.rbGet).krTail = s.krTail := by unfold State.rbGet; split <;> rfl
@[simp] theorem State.rbGet_unmatched : (s.rbGet).unmatched = s.unmatched := by unfold State.rbGet; split <;> rfl
@[simp] theorem State.rbGet_linePending : (s.rbGet).linePending = s.linePending := by unfold State.rbGet; split <;> rfl
@[simp] theorem State.rbGet_response : (s.rbGet).response = s.response := by unfold State.rbGet; split <;> rfl
@[simp] theorem State.rbGet_agenda : (s.rbGet).agenda = s.agenda := by unfold State.rbGet; split <;> rfl
@[simp] theorem State.rbGet_draws : (s.rbGet).draws = s.draws := by unfold State.rbGet; split <;> rfl
@[simp] theorem State.rbGet_drawCount : (s.rbGet).drawCount = s.drawCount := by unfold State.rbGet; split <;> rfl

/-! ### rbPeekNext -/

@[simp] theorem State.rbPeekNext_params : (s.rbPeekNext).params = s.params := by unfold State.rbPeekNext; split <;> rfl
@[simp] theorem State.rbPeekNext_rb : (s.rbPeekNext).rb = s.rb := by unfold State.rbPeekNext; split <;> rfl
@[simp] theorem State.rbPeekNext_rbHead : (s.rbPeekNext).rbHead = s.rbHead := by unfold State.rbPeekNext; split <;> rfl
@[simp] theorem State.rbPeekNext_rbTail : (s.rbPeekNext).rbTail = s.rbTail := by unfold State.rbPeekNext; split <;> rfl
@[simp] theorem State.rbPeekNext_kr : (s.rbPeekNext).kr = s.kr := by unfold State.rbPeekNext; split <;> rfl
@[simp] theorem State.rbPeekNext_krHead : (s.rbPeekNext).krHead = s.krHead := by unfold State.rbPeekNext; split <;> rfl
@[simp] theorem State.rbPeekNext_krTail : (s.rbPeekNext).krTail = s.krTail := by unfold State.rbPeekNext; split <;> rfl
@[simp] theorem State.rbPeekNext_unmatched : (s.rbPeekNext).unmatched = s.unmatched := by unfold State.rbPeekNext; split <;> rfl
@[simp] theorem State.rbPeekNext_linePending : (s.rbPeekNext).linePending = s.linePending := by unfold State.rbPeekNext; split <;> rfl
@[simp] theorem State.rbPeekNext_response : (s.rbPeekNext).response = s.response := by unfold State.rbPeekNext; split <;> rfl
@[simp] theorem State.rbPeekNext_agenda : (s.rbPeekNext).agenda = s.agenda := by unfold State.rbPeekNext; split <;> rfl
@[simp] theorem State.rbPeekNext_draws : (s.rbPeekNext).draws = s.draws := by unfold State.rbPeekNext; split <;> rfl
@[simp] theorem State.rbPeekNext_drawCount : (s.rbPeekNext).drawCount = s.drawCount := by unfold State.rbPeekNext; split <;> rfl

/-! ### krPush -/

@[simp] theorem State.krPush_params (v : Byte) : (s.krPush v).params = s.params := by unfold State.krPush; split <;> rfl
@[simp] theorem State.krPush_rb (v : Byte) : (s.krPush v).rb = s.rb := by unfold State.krPush; split <;> rfl
@[simp] theorem State.krPush_rbHead (v : Byte) : (s.krPush v).rbHead = s.rbHead := by unfold State.krPush; split <;> rfl
@[simp] theorem State.krPush_rbTail (v : Byte) : (s.krPush v).rbTail = s.rbTail := by unfold State.krPush; split <;> rfl
@[simp] theorem State.krPush_rbPeek (v : Byte) : (s.krPush v).rbPeek = s.rbPeek := by unfold State.krPush; split <;> rfl
@[simp] theorem State.krPush_krTail (v : Byte) : (s.krPush v).krTail = s.krTail := by unfold State.krPush; split <;> rfl
@[simp] theorem State.krPush_unmatched (v : Byte) : (s.krPush v).unmatched = s.unmatched := by unfold State.krPush; split <;> rfl
@[simp] theorem State.krPush_linePending (v : Byte) : (s.krPush v).linePending = s.linePending := by unfold State.krPush; split <;> rfl
@[simp] theorem State.krPush_response (v : Byte) : (s.krPush v).response = s.response := by unfold State.krPush; split <;> rfl
@[simp] theorem State.krPush_agenda (v : Byte) : (s.krPush v).agenda = s.agenda := by unfold State.krPush; split <;> rfl
@[simp] theorem State.krPush_draws (v : Byte) : (s.krPush v).draws = s.draws := by unfold State.krPush; split <;> rfl
@[simp] theorem State.krPush_drawCount (v : Byte) : (s.krPush v).drawCount = s.drawCount := by unfold State.krPush; split <;> rfl

/-! ### krPop -/

@[simp] theorem State.krPop_params : (s.krPop).params = s.params := by unfold State.krPop; split <;> rfl
@[simp] theorem State.krPop_rb : (s.krPop).rb = s.rb := by unfold State.krPop; split <;> rfl
@[simp] theorem State.krPop_rbHead : (s.krPop).rbHead = s.rbHead := by unfold State.krPop; split <;> rfl
@[simp] theorem State.krPop_rbTail : (s.krPop).rbTail = s.rbTail := by unfold State.krPop; split <;> rfl
@[simp] theorem State.krPop_rbPeek : (s.krPop).rbPeek = s.rbPeek := by unfold State.krPop; split <;> rfl
@[simp] theorem State.krPop_kr : (s.krPop).kr = s.kr := by unfold State.krPop; split <;> rfl
@[simp] theorem State.krPop_krHead : (s.krPop).krHead = s.krHead := by unfold State.krPop; split <;> rfl
@[simp] theorem State.krPop_unmatched : (s.krPop).unmatched = s.unmatched := by unfold State.krPop; split <;> rfl
@[simp] theorem State.krPop_linePending : (s.krPop).linePending = s.linePending := by unfold State.krPop; split <;> rfl
@[simp] theorem State.krPop_response : (s.krPop).response = s.response := by unfold State.krPop; split <;> rfl
@[simp] theorem State.krPop_agenda : (s.krPop).agenda = s.agenda := by unfold State.krPop; split <;> rfl
@[simp] theorem State.krPop_draws : (s.krPop).draws = s.draws := by unfold State.krPop; split <;> rfl
@[simp] theorem State.krPop_drawCount : (s.krPop).drawCount = s.drawCount := by unfold State.krPop; split <;> rfl

/-! ### rbStoreAll, rbPeekMany and rbFill -/

@[simp] theorem State.rbStoreAll_params (vs : List Byte) : (s.rbStoreAll vs).params = s.params := by
  induction vs generalizing s with
  | nil => rfl
  | cons v vs ih => exact ih (s.rbStore v)
@[simp] theorem State.rbStoreAll_rbTail (vs : List Byte) : (s.rbStoreAll vs).rbTail = s.rbTail := by
  induction vs generalizing s with
  | nil => rfl
  | cons v vs ih => exact ih (s.rbStore v)
@[simp] theorem State.rbStoreAll_rbPeek (vs : List Byte) : (s.rbStoreAll vs).rbPeek = s.rbPeek := by
  induction vs generalizing s with
  | nil => rfl
  | cons v vs ih => exact ih (s.rbStore v)
@[simp] theorem State.rbStoreAll_kr (vs : List Byte) : (s.rbStoreAll vs).kr = s.kr := by
  induction vs generalizing s with
  | nil => rfl
  | cons v vs ih => exact ih (s.rbStore v)
@[simp] theorem State.rbStoreAll_krHead (vs : List Byte) : (s.rbStoreAll vs).krHead = s.krHead := by
  induction vs generalizing s with
  | nil => rfl
  | cons v vs ih => exact ih (s.rbStore v)
@[simp] theorem State.rbStoreAll_krTail (vs : List Byte) : (s.rbStoreAll vs).krTail = s.krTail := by
  induction vs generalizing s with
  | nil => rfl
  | cons v vs ih => exact ih (s.rbStore v)
@[simp] theorem State.rbStoreAll_unmatched (vs : List Byte) : (s.rbStoreAll vs).unmatched = s.unmatched := by
  induction vs generalizing s with
  | nil => rfl
  | cons v vs ih => exact ih (s.rbStore v)
@[simp] theorem State.rbStoreAll_linePending (vs : List Byte) : (s.rbStoreAll vs).linePending = s.linePending := by
  induction vs generalizing s with
  | nil => rfl
  | cons v vs ih => exact ih (s.rbStore v)
@[simp] theorem State.rbStoreAll_response (vs : List Byte) : (s.rbStoreAll vs).response = s.response := by
  induction vs generalizing s with
  | nil => rfl
  | cons v vs ih => exact ih (s.rbStore v)
@[simp] theorem State.rbStoreAll_agenda (vs : List Byte) : (s.rbStoreAll vs).agenda = s.agenda := by
  induction vs generalizing s with
  | nil => rfl
  | cons v vs ih => exact ih (s.rbStore v)
@[simp] theorem State.rbStoreAll_draws (vs : List Byte) : (s.rbStoreAll vs).draws = s.draws := by
  induction vs generalizing s with
  | nil => rfl
  | cons v vs ih => exact ih (s.rbStore v)
@[simp] theorem State.rbStoreAll_drawCount (vs : List Byte) : (s.rbStoreAll vs).drawCount = s.drawCount := by
  induction vs generalizing s with
  | nil => rfl
  | cons v vs ih => exact ih (s.rbStore v)
@[simp] theorem State.rbPeekMany_params (n : Nat) : (s.rbPeekMany n).params = s.params := by
  induction n generalizing s with
  | zero => rfl
  | succ n ih => exact (ih s.rbPeekNext).trans (by simp)
@[simp] theorem State.rbPeekMany_rb (n : Nat) : (s.rbPeekMany n).rb = s.rb := by
  induction n generalizing s with
  | zero => rfl
  | succ n ih => exact (ih s.rbPeekNext).trans (by simp)
@[simp] theorem State.rbPeekMany_rbHead (n : Nat) : (s.rbPeekMany n).rbHead = s.rbHead := by
  induction n generalizing s with
  | zero => rfl
  | succ n ih => exact (ih s.rbPeekNext).trans (by simp)
@[simp] theorem State.rbPeekMany_rbTail (n : Nat) : (s.rbPeekMany n).rbTail = s.rbTail := by
  induction n generalizing s with
  | zero => rfl
  | succ n ih => exact (ih s.rbPeekNext).trans (by simp)
@[simp] theorem State.rbPeekMany_kr (n : Nat) : (s.rbPeekMany n).kr = s.kr := by
  induction n generalizing s with
  | zero => rfl
  | succ n ih => exact (ih s.rbPeekNext).trans (by simp)
@[simp] theorem State.rbPeekMany_krHead (n : Nat) : (s.rbPeekMany n).krHead = s.krHead := by
  induction n generalizing s with
  | zero => rfl
  | succ n ih => exact (ih s.rbPeekNext).trans (by simp)
@[simp] theorem State.rbPeekMany_krTail (n : Nat) : (s.rbPeekMany n).krTail = s.krTail := by
  induction n generalizing s with
  | zero => rfl
  | succ n ih => exact (ih s.rbPeekNext).trans (by simp)
@[simp] theorem State.rbPeekMany_unmatched (n : Nat) : (s.rbPeekMany n).unmatched = s.unmatched := by
  induction n generalizing s with
  | zero => rfl
  | succ n ih => exact (ih s.rbPeekNext).trans (by simp)
@[simp] theorem State.rbPeekMany_linePending (n : Nat) : (s.rbPeekMany n).linePending = s.linePending := by
  induction n generalizing s with
  | zero => rfl
  | succ n ih => exact (ih s.rbPeekNext).trans (by simp)
@[simp] theorem State.rbPeekMany_response (n : Nat) : (s.rbPeekMany n).response = s.response := by
  induction n generalizing s with
  | zero => rfl
  | succ n ih => exact (ih s.rbPeekNext).trans (by simp)
@[simp] theorem State.rbPeekMany_agenda (n : Nat) : (s.rbPeekMany n).agenda = s.agenda := by
  induction n generalizing s with
  | zero => rfl
  | succ n ih => exact (ih s.rbPeekNext).trans (by simp)
@[simp] theorem State.rbPeekMany_draws (n : Nat) : (s.rbPeekMany n).draws = s.draws := by
  induction n generalizing s with
  | zero => rfl
  | succ n ih => exact (ih s.rbPeekNext).trans (by simp)
@[simp] theorem State.rbPeekMany_drawCount (n : Nat) : (s.rbPeekMany n).drawCount = s.drawCount := by
  induction n generalizing s with
  | zero => rfl
  | succ n ih => exact (ih s.rbPeekNext).trans (by simp)
@[simp] theorem State.rbFill_params (m : Nat) : (s.rbFill m).params = s.params := by simp [State.rbFill]
@[simp] theorem State.rbFill_rbTail (m : Nat) : (s.rbFill m).rbTail = s.rbTail := by simp [State.rbFill]
@[simp] theorem State.rbFill_rbPeek (m : Nat) : (s.rbFill m).rbPeek = s.rbPeek := by simp [State.rbFill]
@[simp] theorem State.rbFill_kr (m : Nat) : (s.rbFill m).kr = s.kr := by simp [State.rbFill]
@[simp] theorem State.rbFill_krHead (m : Nat) : (s.rbFill m).krHead = s.krHead := by simp [State.rbFill]
@[simp] theorem State.rbFill_krTail (m : Nat) : (s.rbFill m).krTail = s.krTail := by simp [State.rbFill]
@[simp] theorem State.rbFill_unmatched (m : Nat) : (s.rbFill m).unmatched = s.unmatched := by simp [State.rbFill]
@[simp] theorem State.rbFill_response (m : Nat) : (s.rbFill m).response = s.response := by simp [State.rbFill]
@[simp] theorem State.rbFill_agenda (m : Nat) : (s.rbFill m).agenda = s.agenda := by simp [State.rbFill]
@[simp] theorem State.rbFill_draws (m : Nat) : (s.rbFill m).draws = s.draws.tail := by simp [State.rbFill]
@[simp] theorem State.rbFill_linePending (m : Nat) :
    (s.rbFill m).linePending = s.linePending.drop (s.fillCount m) := by simp [State.rbFill]

end Sys2Proof.Machine
end

