-- ==== Sys2Proof/Laws/RxBuf.lean ====
section
/-! SUPPORT. What each shared Receive Buffer operation does, said once: on the unconsumed bytes as a list, on the
peek cursor as an offset from the tail, and that it keeps the invariant (41_rxbuf.md R122). -/

namespace Sys2Proof.Machine

variable {s : State}

/-! ### Counts -/

theorem State.Inv.nRb_pos (h : s.Inv) : 0 < s.params.nRb := by have := h.params; omega

theorem State.Inv.nKr_pos (h : s.Inv) : 0 < s.params.nKr := by have := h.params; omega

theorem State.Inv.rbAvail_lt (h : s.Inv) : s.rbAvail < s.params.nRb := dist_lt h.nRb_pos

theorem State.Inv.krCount_lt (h : s.Inv) : s.krCount < s.params.nKr := dist_lt h.nKr_pos

/-- I-RB2 (R25): the buffer is empty exactly when head and tail meet. -/
theorem State.Inv.rbAvail_eq_zero (h : s.Inv) : s.rbAvail = 0 ↔ s.rbTail = s.rbHead :=
  dist_eq_zero h.cursors.2.1 h.cursors.1

theorem State.Inv.head_eq (h : s.Inv) : (s.rbTail + s.rbAvail) % s.params.nRb = s.rbHead :=
  add_dist h.cursors.2.1 h.cursors.1

@[simp] theorem State.rbFrom_length (s : State) (c k : Nat) : (s.rbFrom c k).length = k := by simp [State.rbFrom]

@[simp] theorem State.unconsumed_length (s : State) : s.unconsumed.length = s.rbAvail := by simp [State.unconsumed]

@[simp] theorem State.unpeeked_length (s : State) : s.unpeeked.length = s.rbPeekAvail := by simp [State.unpeeked]

theorem State.rbFrom_getElem (s : State) (c k i : Nat) (h : i < (s.rbFrom c k).length) :
    (s.rbFrom c k)[i] = s.rbSlot ((c + i) % s.params.nRb) := by simp [State.rbFrom]

theorem State.rbFrom_succ (s : State) (c k : Nat) (hc : c < s.params.nRb) :
    s.rbFrom c (k + 1) = s.rbSlot c :: s.rbFrom (inc s.params.nRb c) k := by
  simp only [State.rbFrom, List.range_succ_eq_map, List.map_cons, List.map_map, Nat.add_zero, Nat.mod_eq_of_lt hc]
  congr 1
  apply List.map_congr_left
  intro i _
  simp [inc_add_mod]

/-! ### Storing (R112) -/

theorem State.rbStore_avail (h : s.Inv) (hf : s.rbAvail + 1 < s.params.nRb) (v : Byte) :
    (s.rbStore v).rbAvail = s.rbAvail + 1 := by
  have hc := h.cursors
  have hd := h.head_eq
  unfold State.rbAvail at *
  simp only [State.rbStore_params, State.rbStore_rbTail, State.rbStore_rbHead]
  have : inc s.params.nRb s.rbHead = (s.rbTail + (dist s.params.nRb s.rbTail s.rbHead + 1)) % s.params.nRb := by
    rw [inc, ← hd, Nat.mod_add_mod, Nat.add_assoc, hd]
  rw [this, dist_add hc.2.1 hf]

theorem State.rbStore_unconsumed (h : s.Inv) (hf : s.rbAvail + 1 < s.params.nRb) (v : Byte) :
    (s.rbStore v).unconsumed = s.unconsumed ++ [v] := by
  have hc := h.cursors
  have ha := h.rbAvail_lt
  apply List.ext_getElem
  · simp [State.rbStore_avail h hf]
  intro i h1 h2
  have hi : i < s.rbAvail + 1 := by simpa [State.rbStore_avail h hf] using h1
  simp only [State.unconsumed, State.rbFrom_getElem, State.rbSlot, State.rbStore_rb, State.rbStore_params,
    State.rbStore_rbTail]
  by_cases e : i = s.rbAvail
  · subst e
    rw [h.head_eq, Memory.read_write_same, List.getElem_append_right (by simp)]
    simp
  · have hi' : i < s.rbAvail := by omega
    have hne : (s.rbTail + i) % s.params.nRb ≠ s.rbHead := by
      rw [← h.head_eq]
      intro e'
      have h1 := dist_add hc.2.1 (show i < s.params.nRb by omega)
      rw [e', dist_add hc.2.1 ha] at h1
      omega
    rw [Memory.read_write_other hne, List.getElem_append_left (by simpa using hi')]
    simp [State.rbFrom_getElem, State.rbSlot]

theorem State.rbStore_inv (h : s.Inv) (hf : s.rbAvail + 1 < s.params.nRb) (v : Byte) : (s.rbStore v).Inv := by
  have hc := h.cursors
  refine ⟨h.params, ⟨inc_lt h.nRb_pos, hc.2⟩, ?_, Memory.write_wf _ _ h.rbCanonical, h.krCanonical,
    Memory.write_slots v hc.1 h.rbSlots, h.krSlots, ?_, h.krWritten⟩
  · rw [State.rbStore_avail h hf]
    exact le_trans h.peekBetween (Nat.le_succ _)
  · intro i hi
    rw [State.rbStore_avail h hf] at hi
    simp only [State.rbStore_rb, State.rbStore_params, State.rbStore_rbTail]
    by_cases e : i = s.rbAvail
    · rw [e, h.head_eq]; simp
    · exact Memory.write_isSome (h.rbWritten i (by omega))

/-- What the loop of R112 does. -/
theorem State.rbStoreAll_spec (h : s.Inv) (vs : List Byte) (hf : s.rbAvail + vs.length < s.params.nRb) :
    (s.rbStoreAll vs).Inv ∧ (s.rbStoreAll vs).rbAvail = s.rbAvail + vs.length ∧
      (s.rbStoreAll vs).unconsumed = s.unconsumed ++ vs := by
  induction vs generalizing s with
  | nil => simp [State.rbStoreAll, h]
  | cons v vs ih =>
    simp only [List.length_cons] at hf
    have hf' : s.rbAvail + 1 < s.params.nRb := by omega
    have ha := State.rbStore_avail h hf' v
    obtain ⟨h1, h2, h3⟩ := ih (State.rbStore_inv h hf' v) (by simp only [State.rbStore_params, ha]; omega)
    refine ⟨h1, ?_, ?_⟩
    · rw [State.rbStoreAll, h2, ha]; simp; omega
    · rw [State.rbStoreAll, h3, State.rbStore_unconsumed h hf']; simp

/-! ### The fill (R112) -/

theorem State.fillCount_le_limit (s : State) (m : Nat) : s.fillCount m ≤ s.fillLimit m := by
  simp [State.fillCount]

theorem State.fillCount_le (s : State) (m : Nat) :
    s.fillCount m ≤ m ∧ s.fillCount m ≤ s.rbFree ∧ s.fillCount m ≤ s.linePending.length := by
  have h1 := s.fillCount_le_limit m
  have h2 : s.fillLimit m = min m (min s.rbFree s.linePending.length) := rfl
  omega

@[simp] theorem State.fillTaken_length (s : State) (m : Nat) : (s.fillTaken m).length = s.fillCount m := by
  have := (s.fillCount_le m).2.2
  simp [State.fillTaken, this]

/-- Fields the invariant does not speak of can change freely. -/
theorem State.Inv.of_same {t : State} (h : s.Inv) (hp : t.params = s.params) (h1 : t.rb = s.rb)
    (h2 : t.rbHead = s.rbHead) (h3 : t.rbTail = s.rbTail) (h4 : t.rbPeek = s.rbPeek) (h5 : t.kr = s.kr)
    (h6 : t.krHead = s.krHead) (h7 : t.krTail = s.krTail) : t.Inv := by
  have hb : t.rbAvail = s.rbAvail := by simp [State.rbAvail, hp, h2, h3]
  have hk : t.krCount = s.krCount := by simp [State.krCount, hp, h6, h7]
  refine ⟨hp ▸ h.params, ?_, ?_, h1 ▸ h.rbCanonical, h5 ▸ h.krCanonical, ?_, ?_, ?_, ?_⟩
  · simp only [State.CursorsInRange, hp, h2, h3, h4, h6, h7]; exact h.cursors
  · rw [hp, h3, h4, hb]; exact h.peekBetween
  · rw [hp, h1]; exact h.rbSlots
  · rw [hp, h5]; exact h.krSlots
  · rw [hp, h1, h3, hb]; exact h.rbWritten
  · rw [hp, h5, h7, hk]; exact h.krWritten

/-- What a fill does (R112, R113): it takes some `k` within the three bounds off the front of the line, in order,
behind the unconsumed bytes. -/
theorem State.rbFill_spec (h : s.Inv) (m : Nat) :
    (s.rbFill m).Inv ∧ (s.rbFill m).rbAvail = s.rbAvail + s.fillCount m ∧
      (s.rbFill m).unconsumed = s.unconsumed ++ s.fillTaken m := by
  have hk := (s.fillCount_le m)
  have ha := h.rbAvail_lt
  have hfree : s.rbFree = s.params.nRb - 1 - s.rbAvail := rfl
  let u : State := { s.afterDraw with linePending := s.linePending.drop (s.fillCount m) }
  have hu : u.Inv := h.of_same (by simp [u]) (by simp [u]) (by simp [u]) (by simp [u]) (by simp [u]) (by simp [u])
    (by simp [u]) (by simp [u])
  have hav : u.rbAvail = s.rbAvail := by simp [u, State.rbAvail]
  have hun : u.unconsumed = s.unconsumed := by
    simp [u, State.unconsumed, State.rbFrom, State.rbSlot, State.rbAvail]
  have hp : u.params = s.params := by simp [u]
  have hlen : (s.linePending.take (s.fillCount m)).length = s.fillCount m := s.fillTaken_length m
  obtain ⟨h1, h2, h3⟩ := State.rbStoreAll_spec hu (s.linePending.take (s.fillCount m)) (by rw [hlen, hav, hp]; omega)
  exact ⟨h1, by rw [← hlen, ← hav]; exact h2, by rw [State.fillTaken, ← hun]; exact h3⟩

/-! ### Consuming one byte (R115) -/

theorem State.unconsumed_cons (h : s.Inv) (hne : s.rbTail ≠ s.rbHead) :
    s.unconsumed = s.rbSlot s.rbTail :: s.rbFrom (inc s.params.nRb s.rbTail) (s.rbAvail - 1) := by
  have h0 : s.rbAvail ≠ 0 := fun e => hne (h.rbAvail_eq_zero.1 e)
  rw [State.unconsumed, ← State.rbFrom_succ s _ _ h.cursors.2.1]
  congr 1; omega

theorem State.rbGetValue_eq (h : s.Inv) : s.rbGetValue = s.unconsumed.headD sentinel := by
  unfold State.rbGetValue
  split
  · next e =>
    have : s.unconsumed.length = 0 := by simpa using h.rbAvail_eq_zero.2 e
    rw [List.length_eq_zero_iff.1 this]; rfl
  · next e => rw [State.unconsumed_cons h e]; rfl

theorem State.rbGet_avail (h : s.Inv) : s.rbGet.rbAvail = s.rbAvail - 1 := by
  have hc := h.cursors
  unfold State.rbGet
  split
  · next e => rw [h.rbAvail_eq_zero.2 e]
  · next e =>
    have h0 : s.rbAvail ≠ 0 := fun e' => e (h.rbAvail_eq_zero.1 e')
    simp only [State.rbAvail] at *
    rw [dist_eq_ite (inc_lt h.nRb_pos) hc.1, dist_eq_ite hc.2.1 hc.1, inc_eq_ite hc.2.1]
    split <;> split <;> split <;> omega

theorem State.rbGet_unconsumed (h : s.Inv) : s.rbGet.unconsumed = s.unconsumed.tail := by
  have ha := State.rbGet_avail h
  by_cases e : s.rbTail = s.rbHead
  · have h0 : s.unconsumed.length = 0 := by simpa using h.rbAvail_eq_zero.2 e
    simp [State.rbGet, e, List.length_eq_zero_iff.1 h0]
  · rw [State.unconsumed_cons h e, List.tail_cons, State.unconsumed, ha]
    simp [State.rbGet, e, State.rbFrom, State.rbSlot]

theorem State.rbGet_inv (h : s.Inv) : s.rbGet.Inv := by
  have hc := h.cursors
  have ha := State.rbGet_avail h
  by_cases e : s.rbTail = s.rbHead
  · simpa [State.rbGet, e] using h
  have h0 : s.rbAvail ≠ 0 := fun e' => e (h.rbAvail_eq_zero.1 e')
  have hpk := h.peekBetween
  refine ⟨by simpa using h.params, ?_, ?_, by simpa using h.rbCanonical, by simpa using h.krCanonical,
    by simpa using h.rbSlots, by simpa using h.krSlots, ?_, ?_⟩
  · simp only [State.CursorsInRange, State.rbGet, e, if_false]
    refine ⟨hc.1, inc_lt h.nRb_pos, ?_, hc.2.2.2⟩
    split
    · exact inc_lt h.nRb_pos
    · exact hc.2.2.1
  · rw [ha]
    simp only [State.rbGet, e, if_false]
    split
    · next e' => rw [e']; simp
    · next e' =>
      simp only [State.rbAvail] at *
      rw [dist_eq_ite hc.2.1 hc.2.2.1] at hpk
      rw [dist_eq_ite (inc_lt h.nRb_pos) hc.2.2.1, inc_eq_ite hc.2.1]
      revert hpk
      split <;> split <;> split <;> omega
  · intro i hi
    rw [ha] at hi
    have := h.rbWritten (i + 1) (by omega)
    simpa [State.rbGet, e, inc_add_mod] using this
  · simpa [State.krCount] using h.krWritten

/-! ### The peek cursor (R117, R118, R119) -/

/-- The peek cursor stands `j` bytes past the tail. -/
def State.PeekAt (s : State) (j : Nat) : Prop := s.rbPeek = (s.rbTail + j) % s.params.nRb ∧ j ≤ s.rbAvail

theorem State.PeekAt.dist_eq (h : s.Inv) {j : Nat} (hj : s.PeekAt j) :
    dist s.params.nRb s.rbTail s.rbPeek = j := by
  rw [hj.1, dist_add h.cursors.2.1 (lt_of_le_of_lt hj.2 h.rbAvail_lt)]

/-- In every state of the block the peek cursor stands at some offset (I-RB1). -/
theorem State.Inv.peekAt (h : s.Inv) : s.PeekAt (dist s.params.nRb s.rbTail s.rbPeek) :=
  ⟨(add_dist h.cursors.2.1 h.cursors.2.2.1).symm, h.peekBetween⟩

theorem State.PeekAt.peekAvail (h : s.Inv) {j : Nat} (hj : s.PeekAt j) : s.rbPeekAvail = s.rbAvail - j := by
  have hc := h.cursors
  have hd := hj.dist_eq h
  have hle := hj.2
  simp only [State.rbPeekAvail, State.rbAvail] at *
  rw [dist_eq_ite hc.2.1 hc.2.2.1] at hd
  rw [dist_eq_ite hc.2.2.1 hc.1]
  rw [dist_eq_ite hc.2.1 hc.1] at hle ⊢
  revert hd hle
  split <;> split <;> split <;> omega

theorem State.PeekAt.eq_head_iff (h : s.Inv) {j : Nat} (hj : s.PeekAt j) : s.rbPeek = s.rbHead ↔ j = s.rbAvail := by
  rw [← dist_eq_zero h.cursors.2.2.1 h.cursors.1]
  show s.rbPeekAvail = 0 ↔ _
  rw [hj.peekAvail h]
  have := hj.2
  omega

theorem State.rbSyncPeek_peekAt (h : s.Inv) : s.rbSyncPeek.PeekAt 0 :=
  ⟨by simp [Nat.mod_eq_of_lt h.cursors.2.1], Nat.zero_le _⟩

theorem State.rbSyncPeek_inv (h : s.Inv) : s.rbSyncPeek.Inv := by
  have hc := h.cursors
  exact ⟨h.params, ⟨hc.1, hc.2.1, hc.2.1, hc.2.2.2⟩, by simp, h.rbCanonical, h.krCanonical, h.rbSlots, h.krSlots,
    h.rbWritten, h.krWritten⟩

/-- Moving only the peek cursor leaves the unconsumed bytes alone. -/
theorem State.rbPeekNext_unconsumed (s : State) : s.rbPeekNext.unconsumed = s.unconsumed := by
  simp [State.unconsumed, State.rbFrom, State.rbSlot, State.rbAvail]

theorem State.rbPeekNext_avail (s : State) : s.rbPeekNext.rbAvail = s.rbAvail := by simp [State.rbAvail]

theorem State.rbSyncPeek_unconsumed (s : State) : s.rbSyncPeek.unconsumed = s.unconsumed := rfl

theorem State.PeekAt.value (h : s.Inv) {j : Nat} (hj : s.PeekAt j) (hlt : j < s.rbAvail) :
    s.rbPeekValue = s.unconsumed[j]'(by simpa using hlt) := by
  have hne : s.rbPeek ≠ s.rbHead := fun e => by have := (hj.eq_head_iff h).1 e; omega
  simp only [State.rbPeekValue, hne, if_false, State.unconsumed, State.rbFrom_getElem]
  rw [hj.1]

theorem State.PeekAt.next (h : s.Inv) {j : Nat} (hj : s.PeekAt j) (hlt : j < s.rbAvail) :
    s.rbPeekNext.PeekAt (j + 1) := by
  have hne : s.rbPeek ≠ s.rbHead := fun e => by have := (hj.eq_head_iff h).1 e; omega
  refine ⟨?_, by rw [State.rbPeekNext_avail]; omega⟩
  simp only [State.rbPeekNext, hne, if_false]
  rw [hj.1, inc, Nat.mod_add_mod, Nat.add_assoc]

theorem State.Inv.of_peek (h : s.Inv) {p j : Nat} (hp : p = (s.rbTail + j) % s.params.nRb) (hj : j ≤ s.rbAvail) :
    State.Inv { s with rbPeek := p } := by
  have hc := h.cursors
  refine ⟨h.params, ⟨hc.1, hc.2.1, ?_, hc.2.2.2⟩, ?_, h.rbCanonical, h.krCanonical, h.rbSlots, h.krSlots,
    h.rbWritten, h.krWritten⟩
  · show p < _
    rw [hp]; exact Nat.mod_lt _ h.nRb_pos
  · show dist s.params.nRb s.rbTail p ≤ s.rbAvail
    rw [hp, dist_add hc.2.1 (lt_of_le_of_lt hj h.rbAvail_lt)]; exact hj

theorem State.rbPeekNext_inv (h : s.Inv) : s.rbPeekNext.Inv := by
  by_cases e : s.rbPeek = s.rbHead
  · simpa [State.rbPeekNext, e] using h
  · have hj := h.peekAt
    have hlt : dist s.params.nRb s.rbTail s.rbPeek < s.rbAvail :=
      lt_of_le_of_ne hj.2 (fun e' => e ((hj.eq_head_iff h).2 e'))
    have := (hj.next h hlt).1
    simp only [State.rbPeekNext, e, if_false] at this ⊢
    exact h.of_peek this hlt

/-- `n` peeks in a row while the bytes last (R158): what they return, and where they leave the cursor. -/
theorem State.PeekAt.many (h : s.Inv) {j : Nat} (hj : s.PeekAt j) (n : Nat) (hn : j + n ≤ s.rbAvail) :
    s.rbPeekBytes n = (s.unconsumed.drop j).take n ∧ (s.rbPeekMany n).PeekAt (j + n) ∧ (s.rbPeekMany n).Inv := by
  induction n generalizing s j with
  | zero => exact ⟨by simp [State.rbPeekBytes], hj, h⟩
  | succ n ih =>
    have hlt : j < s.rbAvail := by omega
    obtain ⟨h1, h2, h3⟩ := ih (State.rbPeekNext_inv h) (hj.next h hlt) (by rw [State.rbPeekNext_avail]; omega)
    refine ⟨?_, by rw [show j + (n + 1) = j + 1 + n by omega]; exact h2, h3⟩
    rw [State.rbPeekBytes, h1, State.rbPeekNext_unconsumed, hj.value h hlt,
      List.drop_eq_getElem_cons (by simpa using hlt : j < s.unconsumed.length), List.take_succ_cons]

theorem State.rbPeekMany_avail (s : State) (n : Nat) : (s.rbPeekMany n).rbAvail = s.rbAvail := by
  simp [State.rbAvail]

theorem State.rbPeekMany_unconsumed (s : State) (n : Nat) : (s.rbPeekMany n).unconsumed = s.unconsumed := by
  simp [State.unconsumed, State.rbFrom, State.rbSlot, State.rbAvail]

/-! ### Committing the lookahead (R119) -/

theorem State.rbAccept_avail (h : s.Inv) {j : Nat} (hj : s.PeekAt j) : s.rbAccept.rbAvail = s.rbAvail - j := by
  rw [← hj.peekAvail h]; rfl

theorem State.rbAccept_unconsumed (h : s.Inv) {j : Nat} (hj : s.PeekAt j) :
    s.rbAccept.unconsumed = s.unconsumed.drop j := by
  apply List.ext_getElem
  · simp [State.rbAccept_avail h hj]
  intro i h1 h2
  simp only [State.unconsumed, State.rbFrom_getElem, List.getElem_drop, State.rbAccept_rbTail,
    State.rbAccept_params, hj.1, Nat.mod_add_mod, Nat.add_assoc]
  rfl

theorem State.rbAccept_inv (h : s.Inv) : s.rbAccept.Inv := by
  have hc := h.cursors
  have hj := h.peekAt
  refine ⟨h.params, ⟨hc.1, hc.2.2.1, hc.2.2⟩, by simp, h.rbCanonical, h.krCanonical, h.rbSlots, h.krSlots,
    ?_, h.krWritten⟩
  intro i hi
  rw [State.rbAccept_avail h hj] at hi
  have := h.rbWritten (dist s.params.nRb s.rbTail s.rbPeek + i) (by omega)
  simp only [State.rbAccept_rb, State.rbAccept_params, State.rbAccept_rbTail]
  rwa [← Nat.add_assoc, ← Nat.mod_add_mod, ← hj.1] at this

end Sys2Proof.Machine
end

