-- ==== Sys2Proof/Laws/KeyRing.lean ====
section
/-! SUPPORT. What the Key Ring operations do to the queued codes as a list, and that they keep the invariant
(42_keyring.md R140 to R144). -/

namespace Sys2Proof.Machine

variable {s : State}

@[simp] theorem State.keys_length (s : State) : s.keys.length = s.krCount := by simp [State.keys]

theorem State.keys_getElem (s : State) (i : Nat) (h : i < s.keys.length) :
    s.keys[i] = s.krSlot ((s.krTail + i) % s.params.nKr) := by simp [State.keys]

theorem State.Inv.krHead_eq (h : s.Inv) : (s.krTail + s.krCount) % s.params.nKr = s.krHead :=
  add_dist h.cursors.2.2.2.2 h.cursors.2.2.2.1

/-- `kr_empty = (kr_count = 0)` (R29). -/
theorem State.krEmpty_iff (h : s.Inv) : s.krEmpty = true ↔ s.krCount = 0 := by
  unfold State.krEmpty State.krCount
  rw [beq_iff_eq, dist_eq_zero h.cursors.2.2.2.2 h.cursors.2.2.2.1]
  exact eq_comm

/-- `kr_full = (kr_count = N_KR - 1)` (R29). -/
theorem State.krFull_iff (h : s.Inv) : s.krFull = true ↔ s.krCount = s.params.nKr - 1 := by
  have hc := h.cursors
  have hp := h.params
  simp only [State.krFull, State.krCount, beq_iff_eq]
  rw [inc_eq_ite hc.2.2.2.1, dist_eq_ite hc.2.2.2.2 hc.2.2.2.1]
  split <;> split <;> omega

/-- A push onto a ring that is not full appends (R141). -/
theorem State.krPush_spec (h : s.Inv) (v : Byte) (hf : s.krFull = false) :
    (s.krPush v).Inv ∧ (s.krPush v).krCount = s.krCount + 1 ∧ (s.krPush v).keys = s.keys ++ [v] := by
  have hc := h.cursors
  have hp := h.params
  have hlt := h.krCount_lt
  have hne : s.krCount ≠ s.params.nKr - 1 := fun e => by simp [(State.krFull_iff h).2 e] at hf
  have hroom : s.krCount + 1 < s.params.nKr := by omega
  have hhead : inc s.params.nKr s.krHead = (s.krTail + (s.krCount + 1)) % s.params.nKr := by
    conv_lhs => rw [← h.krHead_eq]
    rw [inc, Nat.mod_add_mod, Nat.add_assoc]
  have hcount : (s.krPush v).krCount = s.krCount + 1 := by
    simp only [State.krCount, State.krPush_params, State.krPush_krTail]
    simp only [State.krPush, hf, Bool.false_eq_true, if_false]
    rw [hhead, dist_add hc.2.2.2.2 hroom]
    rfl
  have hkr : (s.krPush v).kr = Memory.write s.kr s.krHead v := by simp [State.krPush, hf]
  refine ⟨⟨by simpa using hp, ?_, by simpa [State.rbAvail] using h.peekBetween, by simpa using h.rbCanonical, ?_,
    by simpa using h.rbSlots, ?_, by simpa [State.rbAvail] using h.rbWritten, ?_⟩, hcount, ?_⟩
  · refine ⟨by simpa using hc.1, by simpa using hc.2.1, by simpa using hc.2.2.1, ?_, by simpa using hc.2.2.2.2⟩
    simp only [State.krPush, hf, Bool.false_eq_true, if_false]
    exact inc_lt h.nKr_pos
  · rw [hkr]; exact Memory.write_wf _ _ h.krCanonical
  · rw [hkr, State.krPush_params]; exact Memory.write_slots v hc.2.2.2.1 h.krSlots
  · intro i hi
    rw [hcount] at hi
    rw [hkr, State.krPush_params, State.krPush_krTail]
    by_cases e : i = s.krCount
    · rw [e, h.krHead_eq]; simp
    · exact Memory.write_isSome (h.krWritten i (by omega))
  · apply List.ext_getElem
    · simp [hcount]
    intro i h1 h2
    have hi : i < s.krCount + 1 := by simpa [hcount] using h1
    simp only [State.keys_getElem, State.krSlot, State.krPush_params, State.krPush_krTail, hkr]
    by_cases e : i = s.krCount
    · subst e
      rw [h.krHead_eq, Memory.read_write_same, List.getElem_append_right (by simp)]
      simp
    · have hi' : i < s.krCount := by omega
      have hne' : (s.krTail + i) % s.params.nKr ≠ s.krHead := by
        rw [← h.krHead_eq]
        intro e'
        have h3 := dist_add hc.2.2.2.2 (show i < s.params.nKr by omega)
        rw [e', dist_add hc.2.2.2.2 hlt] at h3
        omega
      rw [Memory.read_write_other hne', List.getElem_append_left (by simpa using hi')]
      simp [State.keys_getElem, State.krSlot]

/-- A push onto a full ring changes nothing (R141). -/
theorem State.krPush_full (v : Byte) (hf : s.krFull = true) : s.krPush v = s := by simp [State.krPush, hf]

/-- A push keeps the invariant, full or not. -/
theorem State.krPush_inv (h : s.Inv) (v : Byte) : (s.krPush v).Inv := by
  cases hf : s.krFull
  · exact (State.krPush_spec h v hf).1
  · rw [State.krPush_full v hf]; exact h

/-- A pop removes the oldest code, and returns the sentinel when there is none (R142). -/
theorem State.krPop_spec (h : s.Inv) :
    s.krPop.Inv ∧ s.krPop.krCount = s.krCount - 1 ∧ s.krPop.keys = s.keys.tail ∧
      s.krPopValue = s.keys.headD sentinel := by
  have hc := h.cursors
  have hlt := h.krCount_lt
  cases he : s.krEmpty
  · have hne : s.krCount ≠ 0 := fun e => by simp [(State.krEmpty_iff h).2 e] at he
    have hcount : s.krPop.krCount = s.krCount - 1 := by
      simp only [State.krPop, he, Bool.false_eq_true, if_false, State.krCount] at *
      rw [dist_eq_ite hc.2.2.2.2 hc.2.2.2.1] at hne hlt
      rw [dist_eq_ite (inc_lt h.nKr_pos) hc.2.2.2.1, dist_eq_ite hc.2.2.2.2 hc.2.2.2.1, inc_eq_ite hc.2.2.2.2]
      revert hne hlt
      split <;> split <;> split <;> omega
    refine ⟨⟨by simpa using h.params, ?_, by simpa [State.rbAvail] using h.peekBetween, by simpa using h.rbCanonical,
      by simpa using h.krCanonical, by simpa using h.rbSlots, by simpa using h.krSlots,
      by simpa [State.rbAvail] using h.rbWritten, ?_⟩, hcount, ?_, ?_⟩
    · refine ⟨by simpa using hc.1, by simpa using hc.2.1, by simpa using hc.2.2.1, by simpa using hc.2.2.2.1, ?_⟩
      simp only [State.krPop, he, Bool.false_eq_true, if_false]
      exact inc_lt h.nKr_pos
    · intro i hi
      rw [hcount] at hi
      have := h.krWritten (i + 1) (by omega)
      simpa [State.krPop, he, inc_add_mod] using this
    · apply List.ext_getElem
      · simp [hcount]
      intro i h1 h2
      simp [State.keys_getElem, State.krPop, he, State.krSlot, inc_add_mod]
    · have hk : s.keys ≠ [] := fun e => hne (by simpa using congrArg List.length e)
      rw [List.headD_eq_head?_getD, List.head?_eq_getElem?, List.getElem?_eq_getElem (by simp; omega)]
      simp [State.krPopValue, he, State.keys_getElem, Nat.mod_eq_of_lt hc.2.2.2.2]
  · have h0 := (State.krEmpty_iff h).1 he
    have hk : s.keys = [] := List.length_eq_zero_iff.1 (by simp [h0])
    simp [State.krPop, he, h, h0, hk, State.krPopValue]

end Sys2Proof.Machine
end

