-- ==== Sys2Proof/Laws/Framer.lean ====
section
/-! SUPPORT. The framer on the unconsumed bytes (43_framer.md R152): after the fill, PARSE is the byte-sequence
function `frameBytes`, it keeps the invariant, and it touches neither the Key Ring nor `UNMATCHED` (R150). -/

namespace Sys2Proof.Machine

variable {s : State}

/-- Only the tail and the peek cursor differ: what steps 2 to 7 of PARSE may change (R150, R171). -/
structure SameButLookahead (s t : State) : Prop where
  params : t.params = s.params
  rb : t.rb = s.rb
  rbHead : t.rbHead = s.rbHead
  kr : t.kr = s.kr
  krHead : t.krHead = s.krHead
  krTail : t.krTail = s.krTail
  unmatched : t.unmatched = s.unmatched
  linePending : t.linePending = s.linePending
  response : t.response = s.response
  agenda : t.agenda = s.agenda
  draws : t.draws = s.draws
  drawCount : t.drawCount = s.drawCount

theorem SameButLookahead.refl (s : State) : SameButLookahead s s := by constructor <;> rfl

theorem SameButLookahead.trans {s t u : State} (h : SameButLookahead s t) (k : SameButLookahead t u) :
    SameButLookahead s u := by
  constructor
  · exact k.params.trans h.params
  · exact k.rb.trans h.rb
  · exact k.rbHead.trans h.rbHead
  · exact k.kr.trans h.kr
  · exact k.krHead.trans h.krHead
  · exact k.krTail.trans h.krTail
  · exact k.unmatched.trans h.unmatched
  · exact k.linePending.trans h.linePending
  · exact k.response.trans h.response
  · exact k.agenda.trans h.agenda
  · exact k.draws.trans h.draws
  · exact k.drawCount.trans h.drawCount

theorem SameButLookahead.get (s : State) : SameButLookahead s s.rbGet := by constructor <;> simp
theorem SameButLookahead.peekNext (s : State) : SameButLookahead s s.rbPeekNext := by constructor <;> simp
theorem SameButLookahead.sync (s : State) : SameButLookahead s s.rbSyncPeek := by constructor <;> simp
theorem SameButLookahead.accept (s : State) : SameButLookahead s s.rbAccept := by constructor <;> simp
theorem SameButLookahead.peekMany (s : State) (n : Nat) : SameButLookahead s (s.rbPeekMany n) := by
  constructor <;> simp

/-- What one outcome of steps 2 to 7 says, for entry state `s` with unconsumed bytes `u`. -/
structure FramesAs (s : State) (r : ParseResult × State) : Prop where
  inv : r.2.Inv
  same : SameButLookahead s r.2
  result : r.1 = (frameBytes s.params s.unconsumed).1
  unconsumed : r.2.unconsumed = s.unconsumed.drop (frameBytes s.params s.unconsumed).2

theorem frameBytes_short (p : Params) (u : List Byte) (h : u.length < 4) : frameBytes p u = (.giveUp, 0) := by
  match u with
  | [] => rfl
  | [_] => rfl
  | c :: n :: rest =>
    have : rest.length < 2 := by simp at h; omega
    simp [frameBytes, this]

theorem frameBytes_command (p : Params) (c n : Byte) (rest : List Byte) (h : 2 ≤ rest.length)
    (hc : p.maxCmd < opId c) : frameBytes p (c :: n :: rest) = (.tryAgain, 1) := by
  simp [frameBytes, Nat.not_lt.2 h, hc]

theorem frameBytes_length (p : Params) (c n : Byte) (rest : List Byte) (h : 2 ≤ rest.length)
    (hc : ¬ p.maxCmd < opId c) (hn : p.maxData < n.toNat) : frameBytes p (c :: n :: rest) = (.tryAgain, 1) := by
  simp [frameBytes, Nat.not_lt.2 h, hc, hn]

theorem frameBytes_incomplete (p : Params) (c n : Byte) (rest : List Byte) (h : 2 ≤ rest.length)
    (hc : ¬ p.maxCmd < opId c) (hn : ¬ p.maxData < n.toNat) (hr : rest.length < n.toNat + 2) :
    frameBytes p (c :: n :: rest) = (.giveUp, 0) := by
  simp only [frameBytes, Nat.not_lt.2 h, hc, hn, if_false]
  split
  · next lo hi tl e => have := congrArg List.length e; simp at this; omega
  · rfl

theorem frameBytes_complete (p : Params) (c n : Byte) (rest : List Byte)
    (hc : ¬ p.maxCmd < opId c) (hn : ¬ p.maxData < n.toNat) (hr : n.toNat + 2 ≤ rest.length) :
    frameBytes p (c :: n :: rest) =
      (let pkt : Packet := ⟨c, n, rest.take n.toNat, rest[n.toNat], rest[n.toNat + 1]⟩
       if pkt.good then (.goodMsg pkt, n.toNat + 4) else (.tryAgain, 1)) := by
  have h2 : ¬ rest.length < 2 := by omega
  have hd : rest.drop n.toNat = rest[n.toNat] :: rest[n.toNat + 1] :: rest.drop (n.toNat + 2) := by
    rw [List.drop_eq_getElem_cons (by omega : n.toNat < rest.length),
      List.drop_eq_getElem_cons (by omega : n.toNat + 1 < rest.length)]
  simp only [frameBytes, h2, hc, hn, if_false]
  rw [hd]
  simp [Packet.good]

/-- A discard of one byte after any lookahead (R155, R156, R159). -/
theorem framesAs_tryAgain {t : State} (ht : t.Inv) (hs : SameButLookahead s t) (hu : t.unconsumed = s.unconsumed)
    (hf : frameBytes s.params s.unconsumed = (.tryAgain, 1)) : FramesAs s (.tryAgain, t.rbGet) := by
  refine ⟨State.rbGet_inv ht, hs.trans (.get t), by rw [hf], ?_⟩
  rw [State.rbGet_unconsumed ht, hu, hf, List.drop_one]

theorem framesAs_giveUp {t : State} (ht : t.Inv) (hs : SameButLookahead s t) (hu : t.unconsumed = s.unconsumed)
    (hf : frameBytes s.params s.unconsumed = (.giveUp, 0)) : FramesAs s (.giveUp, t) :=
  ⟨ht, hs, by rw [hf], by rw [hf, List.drop_zero, hu]⟩

/-- Steps 2 to 7 of R152 are `frameBytes` on the unconsumed bytes. -/
theorem parseCandidate_framesAs (h : s.Inv) : FramesAs s (parseCandidate s) := by
  have hlen := s.unconsumed_length
  unfold parseCandidate
  split
  · next h4 =>
    exact framesAs_giveUp h (.refl s) rfl (frameBytes_short _ _ (by omega))
  next h4 =>
  match hu : s.unconsumed with
  | [] => rw [hu] at hlen; simp at hlen; omega
  | [_] => rw [hu] at hlen; simp at hlen; omega
  | c :: n :: rest =>
  rw [hu] at hlen
  have hr2 : 2 ≤ rest.length := by simp at hlen; omega
  -- the state after sync, and after peeking the command
  have hi0 := State.rbSyncPeek_inv h
  have hp0 := State.rbSyncPeek_peekAt h
  have hu0 : s.rbSyncPeek.unconsumed = c :: n :: rest := hu
  have ha0 : s.rbSyncPeek.rbAvail = s.rbAvail := rfl
  have hv0 : s.rbSyncPeek.rbPeekValue = c := by
    rw [hp0.value hi0 (by omega)]; simp [hu0]
  have hi1 := State.rbPeekNext_inv hi0
  have hp1 := hp0.next hi0 (by omega)
  have hu1 := s.rbSyncPeek.rbPeekNext_unconsumed.trans hu0
  have ha1 := s.rbSyncPeek.rbPeekNext_avail.trans ha0
  have hs1 := (SameButLookahead.sync s).trans (.peekNext _)
  unfold parseCommand
  simp only [hv0]
  split
  · next hc =>
    exact framesAs_tryAgain hi1 hs1 (hu1.trans hu.symm) (by rw [hu]; exact frameBytes_command _ _ _ _ hr2 hc)
  next hc =>
  generalize s.rbSyncPeek.rbPeekNext = s1 at *
  have hv1 : s1.rbPeekValue = n := by rw [hp1.value hi1 (by omega)]; simp [hu1]
  have hi2 := State.rbPeekNext_inv hi1
  have hp2 := hp1.next hi1 (by omega)
  have hu2 := s1.rbPeekNext_unconsumed.trans hu1
  have ha2 := s1.rbPeekNext_avail.trans ha1
  have hs2 := hs1.trans (.peekNext _)
  unfold parseLength
  simp only [hv1, hs1.params]
  split
  · next hn =>
    exact framesAs_tryAgain hi2 hs2 (hu2.trans hu.symm) (by rw [hu]; exact frameBytes_length _ _ _ _ hr2 hc hn)
  next hn =>
  generalize s1.rbPeekNext = s2 at *
  simp only [List.length_cons] at hlen
  split
  · next h5 =>
    rw [hp2.peekAvail hi2] at h5
    exact framesAs_giveUp hi2 hs2 (hu2.trans hu.symm)
      (by rw [hu]; exact frameBytes_incomplete _ _ _ _ hr2 hc hn (by omega))
  next h5 =>
  rw [hp2.peekAvail hi2] at h5
  have hr : n.toNat + 2 ≤ rest.length := by omega
  -- step 6
  obtain ⟨hd, hp3, hi3⟩ := hp2.many hi2 n.toNat (by omega)
  rw [show 0 + 1 + 1 + n.toNat = n.toNat + 2 by omega] at hp3
  have hu3 := (s2.rbPeekMany_unconsumed n.toNat).trans hu2
  have ha3 := (s2.rbPeekMany_avail n.toNat).trans ha2
  have hs3 := hs2.trans (.peekMany _ n.toNat)
  rw [hu2] at hd
  unfold parseCheck
  simp only [hd]
  generalize s2.rbPeekMany n.toNat = s3 at *
  have hlo : s3.rbPeekValue = rest[n.toNat] := by
    rw [hp3.value hi3 (by omega)]
    simp only [hu3]
    simp
  have hi4 := State.rbPeekNext_inv hi3
  have hp4 := hp3.next hi3 (by omega)
  have hu4 := s3.rbPeekNext_unconsumed.trans hu3
  have ha4 := s3.rbPeekNext_avail.trans ha3
  have hs4 := hs3.trans (.peekNext _)
  simp only [hlo]
  generalize s3.rbPeekNext = s4 at *
  have hhi : s4.rbPeekValue = rest[n.toNat + 1] := by
    rw [hp4.value hi4 (by omega)]
    simp only [hu4]
    simp
  have hi5 := State.rbPeekNext_inv hi4
  have hp5 := hp4.next hi4 (by omega)
  have hu5 := s4.rbPeekNext_unconsumed.trans hu4
  have hs5 := hs4.trans (.peekNext _)
  simp only [hhi]
  generalize s4.rbPeekNext = s5 at *
  have hf := frameBytes_complete s.params c n rest hc hn hr
  rw [← hu] at hf
  simp only [List.drop_succ_cons, List.drop_zero]
  split
  · next hg =>
    simp only [hg, if_true] at hf
    refine ⟨State.rbAccept_inv hi5, hs5.trans (.accept _), by rw [hf], ?_⟩
    rw [State.rbAccept_unconsumed hi5 hp5, hu5, hf, hu]
  · next hg =>
    simp only [hg] at hf
    exact framesAs_tryAgain hi5 hs5 (hu5.trans hu.symm) (by rw [hf]; simp)

/-- PARSE as a whole (R152): the fill appends what it took, and the rest is `frameBytes` on the unconsumed bytes. -/
theorem parseBody_framesAs (h : s.Inv) : FramesAs (s.rbFill s.params.fillMax) (parseBody s) :=
  parseCandidate_framesAs (State.rbFill_spec h s.params.fillMax).1

theorem parseBody_inv (h : s.Inv) : (parseBody s).2.Inv := (parseBody_framesAs h).inv

/-- In every state, one of the block or not: steps 2 to 7 change only the tail and the peek cursor (R150, R171). -/
theorem parseCandidate_same (s : State) : SameButLookahead s (parseCandidate s).2 := by
  have h1 := (SameButLookahead.sync s).trans (.peekNext _)
  have h2 := h1.trans (.peekNext _)
  unfold parseCandidate
  split
  · exact .refl s
  unfold parseCommand
  dsimp only
  split
  · exact h1.trans (.get _)
  unfold parseLength
  dsimp only
  split
  · exact h2.trans (.get _)
  split
  · exact h2
  unfold parseCheck
  dsimp only
  have h5 := ((h2.trans (.peekMany _ s.rbSyncPeek.rbPeekNext.rbPeekValue.toNat)).trans (.peekNext _)).trans
    (.peekNext _)
  split
  · exact h5.trans (.accept _)
  · exact h5.trans (.get _)

/-- PARSE's frame in every state: beside the tail and the peek cursor, what its fill does (R150). -/
theorem parseBody_same (s : State) : SameButLookahead (s.rbFill s.params.fillMax) (parseBody s).2 :=
  parseCandidate_same _

/-- `n` peeks return `n` bytes, in every state. -/
@[simp] theorem State.rbPeekBytes_length (s : State) (n : Nat) : (s.rbPeekBytes n).length = n := by
  induction n generalizing s with
  | zero => rfl
  | succ n ih => simp [State.rbPeekBytes, ih]

/-- The dispatch step keeps the invariant (R160). -/
theorem dispatch_inv (h : s.Inv) (q : Byte) (r : ParseResult) : (dispatch q r s).Inv := by
  unfold dispatch
  split
  · exact h
  · exact h
  · split
    · split
      · exact h
      · exact State.krPush_inv h _
    · split
      · exact h
      · exact h.of_same rfl rfl rfl rfl rfl rfl rfl rfl

end Sys2Proof.Machine
end

