-- ==== Sys2Proof/Laws/PerInstr.lean ====
section
/-! SUPPORT. Facts about every operation as syntax, one lemma per constructor of Instr. -/

namespace Sys2Proof.Laws.OpWordLength

/-- R68: the length of an op word is told from its own first bytes, whatever follows it. -/
def Statement (i : Instr) : Prop :=
  i.wellFormed = true → ∀ rest : List Byte, opWordLength (encode i ++ rest) = some (encode i).length

theorem rbReset : Statement .rbReset := fun _ _ => rfl
theorem rbFill (a : Byte) : Statement (.rbFill a) := fun _ _ => rfl
theorem rbAvail : Statement .rbAvail := fun _ _ => rfl
theorem rbGet : Statement .rbGet := fun _ _ => rfl
theorem rbPeekAvail : Statement .rbPeekAvail := fun _ _ => rfl
theorem rbSyncPeek : Statement .rbSyncPeek := fun _ _ => rfl
theorem rbPeek : Statement .rbPeek := fun _ _ => rfl
theorem rbAccept : Statement .rbAccept := fun _ _ => rfl
theorem krReset : Statement .krReset := fun _ _ => rfl
theorem krPush (v : Byte) : Statement (.krPush v) := fun _ _ => rfl
theorem krPop : Statement .krPop := fun _ _ => rfl
theorem crc16 (seed : Word16) (bytes : List Byte) : Statement (.crc16 seed bytes) := by
  intro h rest
  have h' : bytes.length ≤ 255 := by simpa [Instr.wellFormed] using h
  have hl : (Machine.countByte bytes.length).toNat = bytes.length := by
    simp [Machine.countByte]; omega
  simp only [encode, List.cons_append, List.nil_append, opWordLength, hl, List.length_cons]
  congr 1; omega
theorem parse : Statement .parse := fun _ _ => rfl
theorem parseDispatch (q : Byte) : Statement (.parseDispatch q) := fun _ _ => rfl
theorem unmatchedRead : Statement .unmatchedRead := fun _ _ => rfl

end Sys2Proof.Laws.OpWordLength
end

