-- ==== Sys2Proof/Laws/Step.lean ====
section
/-! SUPPORT. What a step can do, said once: whose turn it is in a state of the block, and the cases of a next state.
Proofs about `step` cite these instead of unfolding it. -/

namespace Sys2Proof.Machine

variable {s t : State}

/-- Past the two checks, the agenda alone says whose turn it is. -/
theorem nextTurn_of_ready (w : s.params.Wf) (c : s.CursorsInRange) :
    nextTurn s =
      match s.agenda with
      | [] => .settled s
      | .deliver bytes :: moves => .settled (State.lineAppend { s with agenda := moves } bytes)
      | .blockReset :: moves => .settled (State.blockReset { s with agenda := moves })
      | .issue bytes :: moves => portTurn s bytes moves :=
  (if_neg (not_not.2 w)).trans (if_neg (not_not.2 c))

theorem nextTurn_illFormed (w : ¬ s.params.Wf) : nextTurn s = .stop .illFormedInstance := by
  rw [nextTurn, if_pos w]

theorem step_settled (h : nextTurn s = .settled t) : step s = .next t := by simp [step, h]

theorem step_run {i : Instr} (h : nextTurn s = .run i t) : step s = exec i t := by simp [step, h]

theorem step_stop {r : Refusal} (h : nextTurn s = .stop r) : step s = .refused r := by simp [step, h]

/-- Every way to a next state: nobody moves, the line moves, a block reset, an empty issue, an ILLEGAL response, or
an operation at the state whose agenda has moved on. -/
theorem step_next_cases (h : step s = .next t) :
    s.params.Wf ∧ s.CursorsInRange ∧
    (t = s ∨
      (∃ bytes moves, s.agenda = .deliver bytes :: moves ∧ t = State.lineAppend { s with agenda := moves } bytes) ∨
      (∃ moves, s.agenda = .blockReset :: moves ∧ t = State.blockReset { s with agenda := moves }) ∨
      (∃ moves, s.agenda = .issue [] :: moves ∧ t = { s with agenda := moves }) ∨
      (∃ bytes moves opcode rest, s.agenda = .issue bytes :: moves ∧ decode bytes = .reserved opcode rest ∧
        t = State.respondIllegal { s with agenda := portRest rest moves }) ∨
      ∃ bytes moves i rest, s.agenda = .issue bytes :: moves ∧ decode bytes = .op i rest ∧
        exec i { s with agenda := portRest rest moves } = .next t) := by
  by_cases w : s.params.Wf
  swap
  · rw [step_stop (nextTurn_illFormed w)] at h; cases h
  by_cases c : s.CursorsInRange
  swap
  · rw [step, nextTurn, if_neg (not_not.2 w), if_pos c] at h; cases h
  refine ⟨w, c, ?_⟩
  rw [step, nextTurn_of_ready w c] at h
  match ha : s.agenda with
  | [] => rw [ha] at h; exact .inl (by injection h with h; exact h.symm)
  | .deliver bytes :: moves =>
    rw [ha] at h
    exact .inr (.inl ⟨bytes, moves, rfl, by injection h with h; exact h.symm⟩)
  | .blockReset :: moves =>
    rw [ha] at h
    exact .inr (.inr (.inl ⟨moves, rfl, by injection h with h; exact h.symm⟩))
  | .issue bytes :: moves =>
    rw [ha] at h
    simp only [portTurn] at h
    match bytes with
    | [] => exact .inr (.inr (.inr (.inl ⟨moves, rfl, by injection h with h; exact h.symm⟩)))
    | b :: bs =>
      simp only [List.isEmpty_cons, Bool.false_eq_true, if_false] at h
      match hd : decode (b :: bs) with
      | .op i rest => rw [hd] at h; exact .inr (.inr (.inr (.inr (.inr ⟨_, moves, i, rest, rfl, hd, h⟩))))
      | .reserved o rest =>
        rw [hd] at h
        exact .inr (.inr (.inr (.inr (.inl ⟨_, moves, o, rest, rfl, hd, by injection h with h; exact h.symm⟩))))
      | .truncated => rw [hd] at h; cases h

/-- What `respond` leaves the invariant. -/
theorem State.respond_inv (h : s.Inv) (fields : List Byte) : (s.respond fields).Inv :=
  h.of_same rfl rfl rfl rfl rfl rfl rfl rfl

end Sys2Proof.Machine
end

