-- ==== Sys2Proof/Laws/Transport.lean ====
section
/-! SUPPORT. PARSE_DISPATCH as a whole, and one turn of the host's loop (60_exceptions.md R213, R214): proofs about
SEND cite these instead of unfolding either. -/

namespace Sys2Proof.Machine

variable {s : State}

/-- The state PARSE_DISPATCH reaches (R160). -/
def afterDispatch (q : Byte) (s : State) : State :=
  (dispatch q (parseBody s).1 (parseBody s).2).respond
    ((parseBody s).1.code :: (classify q (parseBody s).1 (parseBody s).2).code :: (parseBody s).1.fields)

theorem exec_parseDispatch (q : Byte) (s : State) : exec (.parseDispatch q) s = .next (afterDispatch q s) := rfl

theorem afterDispatch_response (q : Byte) (s : State) :
    (afterDispatch q s).response = 0x00#8 :: (parseBody s).1.code ::
      (classify q (parseBody s).1 (parseBody s).2).code :: (parseBody s).1.fields := rfl

/-- PARSE_DISPATCH keeps the invariant. -/
theorem afterDispatch_inv (h : s.Inv) (q : Byte) : (afterDispatch q s).Inv :=
  State.respond_inv (dispatch_inv (parseBody_inv h) q _) _

/-- The line's move keeps the invariant. -/
theorem State.lineAppend_inv (h : s.Inv) (bytes : List Byte) : (s.lineAppend bytes).Inv :=
  h.of_same rfl rfl rfl rfl rfl rfl rfl rfl

@[simp] theorem State.lineAppend_unconsumed (s : State) (bytes : List Byte) :
    (s.lineAppend bytes).unconsumed = s.unconsumed := rfl

/-- The acknowledgement test of PARSE_DISPATCH, by the type tag of the packet (R160, R74, log entry 14). -/
theorem isExpectedAck_iff (q c : Byte) : isExpectedAck q c = true ↔ c = ackOf q ∧ c.toNat < 0xC0 := by
  have tag : ∀ q : Byte, commandClass (ackOf q) = .acknowledgement ↔ (ackOf q).toNat < 0xC0 := by decide
  simp only [isExpectedAck, Bool.and_eq_true, beq_iff_eq]
  exact and_congr_right fun e => by rw [e, tag]

/-- When the acknowledgement test fails, so that the packet is OTHER (R163, R74, log entry 14). -/
theorem isExpectedAck_false_iff (q c : Byte) : isExpectedAck q c = false ↔ c ≠ ackOf q ∨ 0xC0 ≤ c.toNat := by
  rw [Bool.eq_false_iff, Ne, isExpectedAck_iff, not_and_or, not_lt]

/-- For every request `q`, and every other `q` with bit 7 clear, the test compares the whole command byte (R162). -/
theorem isExpectedAck_of_lt {q : Byte} (h : q.toNat < 0x80) (c : Byte) : isExpectedAck q c = true ↔ c = ackOf q := by
  have tag : ∀ q : Byte, q.toNat < 0x80 → (ackOf q).toNat < 0xC0 := by decide
  rw [isExpectedAck_iff]
  exact ⟨And.left, fun e => ⟨e, e ▸ tag q h⟩⟩

/-- The classes a good packet can have, by the two tests of R160. -/
theorem classify_goodMsg (q : Byte) (p : Packet) (s : State) :
    (p.command = keyEventCmd ∧ classify q (.goodMsg p) s ∈ [.keyPushed, .keyDropped, .keyNoData]) ∨
    (p.command ≠ keyEventCmd ∧ isExpectedAck q p.command = true ∧ classify q (.goodMsg p) s = .ack) ∨
    (p.command ≠ keyEventCmd ∧ isExpectedAck q p.command = false ∧ classify q (.goodMsg p) s = .other) := by
  simp only [classify]
  split
  · next hk =>
    refine .inl ⟨hk, ?_⟩
    split
    · simp
    · split <;> simp
  · next hk =>
    split
    · next ha => exact .inr (.inl ⟨hk, ha, rfl⟩)
    · next ha => exact .inr (.inr ⟨hk, by simpa using ha, rfl⟩)

/-- What `frameBytes` consumes on a GIVE_UP: nothing. -/
theorem frameBytes_giveUp {p : Params} {u : List Byte} (h : (frameBytes p u).1 = .giveUp) :
    (frameBytes p u).2 = 0 := by
  match u with
  | [] => rfl
  | [_] => rfl
  | c :: n :: rest =>
    simp only [frameBytes] at h ⊢
    repeat' split
    all_goals simp_all

/-- A GIVE_UP moves bytes from the line into the buffer and loses none (R154, R157, R171). -/
theorem parseBody_giveUp (h : s.Inv) (hg : (parseBody s).1 = .giveUp) :
    (parseBody s).2.unconsumed ++ (parseBody s).2.linePending = s.unconsumed ++ s.linePending := by
  have hf := parseBody_framesAs h
  have h0 := frameBytes_giveUp (hf.result.symm.trans hg)
  rw [hf.unconsumed, h0, List.drop_zero, (State.rbFill_spec h _).2.2, hf.same.linePending,
    State.rbFill_linePending, State.fillTaken, List.append_assoc, List.take_append_drop]

/-- The cases of one turn: GIVE_UP, the awaited ACK, or one more turn at once. -/
theorem sendLoop_turn (hp : HostParams) (q : Byte) (d now : Nat) (tick : Tick) (ticks : List Tick) (s : State) :
    (∃ r, (parseBody (s.lineAppend tick.arrived)).1 = .giveUp ∧
      ((r = .drained ∧ hp.mode = .noWait) ∨ (r = .timedOut ∧ hp.mode = .wait ∧ d ≤ now + tick.elapsed)) ∧
      sendLoop hp q d (tick :: ticks) now s = .returned r (afterDispatch q (s.lineAppend tick.arrived))) ∨
    (hp.mode = .wait ∧
      sendLoop hp q d (tick :: ticks) now s =
        .returned .acknowledged (afterDispatch q (s.lineAppend tick.arrived))) ∨
    ∃ now', ∀ ticks, sendLoop hp q d (tick :: ticks) now s =
      sendLoop hp q d ticks now' (afterDispatch q (s.lineAppend tick.arrived)) := by
  simp only [sendLoop, exec_parseDispatch]
  split
  · next hr =>
    have hg : (parseBody (s.lineAppend tick.arrived)).1 = .giveUp := by
      rw [afterDispatch_response] at hr
      cases e : (parseBody (s.lineAppend tick.arrived)).1 <;> simp [e, ParseResult.code, resultGiveUp,
        resultTryAgain, resultGoodMsg] at hr ⊢
    split
    · next hm => exact .inl ⟨.drained, hg, .inl ⟨rfl, hm⟩, rfl⟩
    · next hm =>
      split
      · next hd => exact .inl ⟨.timedOut, hg, .inr ⟨rfl, hm, hd⟩, rfl⟩
      · exact .inr (.inr ⟨_, fun _ => rfl⟩)
  · split
    · next hc => exact .inr (.inl ⟨hc.2.2, rfl⟩)
    · exact .inr (.inr ⟨_, fun _ => rfl⟩)

end Sys2Proof.Machine
end

