-- ==== Sys2Proof/Tests/Slice0.lean ====
section
/-! SUPPORT. Checks of the model's own work. Every expected value is the spec's: the vectors of 95_test_vectors.md
(V-..., PROG...), the examples of the rules, or the encodings of 30_encoding.md. Then the witnesses: for each
statement with hypotheses, a state and operands that meet them together, clause by clause at the bounds. -/

namespace Sys2Proof.Tests

open Sys2Proof Sys2Proof.Machine

/-! ### Well-formedness -/

/-- R69: `L` is one byte, so 256 data bytes fit no op word. -/
theorem test_crc16_with_256_bytes_is_ill_formed :
    (Instr.crc16 0xFFFF#16 (List.replicate 256 0x00#8)).wellFormed = false := by
  rw [Instr.wellFormed, List.length_replicate]; decide

theorem test_crc16_with_255_bytes_is_well_formed :
    (Instr.crc16 0xFFFF#16 (List.replicate 255 0x00#8)).wellFormed = true := by
  rw [Instr.wellFormed, List.length_replicate]; decide

/-! ### Decoding, words written out from R69 and R70 -/

theorem test_decode_rb_words :
    decode [0x00#8] = .op .rbReset [] ∧ decode [0x01#8, 0x08#8] = .op (.rbFill 0x08#8) [] ∧
    decode [0x02#8] = .op .rbAvail [] ∧ decode [0x03#8] = .op .rbGet [] ∧
    decode [0x04#8] = .op .rbPeekAvail [] ∧ decode [0x05#8] = .op .rbSyncPeek [] ∧
    decode [0x06#8] = .op .rbPeek [] ∧ decode [0x07#8] = .op .rbAccept [] := by decide

theorem test_decode_kr_words :
    decode [0x10#8] = .op .krReset [] ∧ decode [0x11#8, 0xFF#8] = .op (.krPush 0xFF#8) [] ∧
    decode [0x12#8] = .op .krPop [] := by decide

/-- V-C8, operation form: the seed's low byte comes first. -/
theorem test_decode_crc_words :
    decode [0x20#8, 0x34#8, 0x12#8, 0x00#8] = .op (.crc16 0x1234#16 []) [] ∧
    decode [0x20#8, 0xFF#8, 0xFF#8, 0x03#8, 0x0D#8, 0x01#8, 0x19#8, 0x31#8] =
      .op (.crc16 0xFFFF#16 [0x0D#8, 0x01#8, 0x19#8]) [0x31#8] := by decide

theorem test_decode_framer_words :
    decode [0x30#8] = .op .parse [] ∧ decode [0x31#8, 0x0D#8] = .op (.parseDispatch 0x0D#8) [] ∧
    decode [0x32#8] = .op .unmatchedRead [] := by decide

/-- R73: each of these ends inside an op word. -/
theorem test_decode_truncated_words :
    decode [] = .truncated ∧ decode [0x01#8] = .truncated ∧ decode [0x20#8, 0xFF#8, 0xFF#8] = .truncated ∧
    decode [0x20#8, 0xFF#8, 0xFF#8, 0x02#8, 0x0D#8] = .truncated := by decide

/-- V-X1. -/
theorem test_decode_reserved_opcodes :
    ∀ b ∈ [0x08#8, 0x13#8, 0x21#8, 0x33#8, 0xFF#8], decode [b] = .reserved b [] := by decide

/-- The numbering of spec/opcode_table.json: byte 0 is bits 7..0. -/
theorem test_table_words :
    decodeTableWord 8 0x03 = some .rbGet ∧ decodeTableWord 16 0x0D31 = some (.parseDispatch 0x0D#8) ∧
    decodeTableWord 8 0x20 = some (.crc16 0x0000#16 []) ∧
    decodeTableWord 32 0x02123420 = some (.crc16 0x1234#16 [0x00#8, 0x00#8]) ∧
    decodeTableWord 8 0x08 = none := by decide

theorem test_withFetchWord_runs_it :
    step (State.reset.withFetchWord 8 0x30) = exec .parse State.reset ∧
    step (State.reset.withFetchWord 8 0x20) = exec (.crc16 0x0000#16 []) State.reset := ⟨rfl, rfl⟩

/-! ### The CRC engine -/

/-- R103. -/
theorem test_crc_table_entries :
    crcTable 0x01 = 0x1189#16 ∧ crcTable 0x66 = 0x0630#16 ∧ crcTable 0xB2 = 0x9699#16 ∧
    crcTable 0xFF = 0x0F78#16 := by decide

/-- V-C4, V-C9, V-C10. -/
theorem test_crc_vectors :
    crc16 [0x4D#8, 0x00#8] 0xFFFF#16 = 0xF959#16 ∧ crc16 [0x80#8, 0x01#8, 0x05#8] 0xFFFF#16 = 0x8455#16 ∧
    crc16 [0x31#8, 0x32#8, 0x33#8, 0x34#8, 0x35#8, 0x36#8, 0x37#8, 0x38#8, 0x39#8] 0x0000#16 = 0xDE76#16 := by
  decide

/-! ### One operation at a time -/

/-- The next state, where there is one. -/
def after (o : Host.Outcome State Fault Refusal) : Option State :=
  match o with
  | .next s => some s
  | .fault _ => none
  | .refused _ => none

/-- The response and `h/t/p` (95_test_vectors.md). -/
def resp (i : Instr) (s : State) : Option (List Byte × Nat × Nat × Nat) :=
  (after (exec i s)).map (fun t => (t.response, t.rbHead, t.rbTail, t.rbPeek))

/-- Reset state with these bytes on the line and full fills. -/
def online (bytes : List Byte) : State :=
  { State.reset with linePending := bytes, draws := List.replicate 8 255 }

/-- Cursors `h/t/p`, with the given slots written. -/
def at_ (h t p : Nat) (rb : Memory) : State :=
  { State.reset with rb := rb, rbHead := h, rbTail := t, rbPeek := p, draws := List.replicate 8 255 }

/-- V-R1. -/
theorem test_rb_reset : resp .rbReset (at_ 7 3 5 []) = some ([0x00#8], 0, 0, 0) := by decide

/-- V-R3: the head wraps. -/
theorem test_rb_fill_wraps :
    (after (exec (.rbFill 0x10#8) { at_ 62 60 60 [] with linePending := [0x0A#8, 0x0B#8, 0x0C#8] })).map
      (fun t => (t.response, t.rbHead, t.rb, t.rbAvail)) =
    some ([0x00#8, 0x03#8], 1, [(0, 0x0C#8), (62, 0x0A#8), (63, 0x0B#8)], 5) := by decide

/-- V-R2: a partial read. -/
theorem test_rb_fill_partial :
    (after (exec (.rbFill 0x08#8)
      { online [0x11#8, 0x22#8, 0x33#8, 0x44#8, 0x55#8] with draws := [4] })).map
      (fun t => (t.response, t.rbHead, t.linePending)) = some ([0x00#8, 0x04#8], 4, [0x55#8]) := by decide

/-- V-R15, V-R10. -/
theorem test_rb_avail_wraps :
    resp .rbAvail (at_ 1 60 60 []) = some ([0x00#8, 0x05#8], 1, 60, 60) ∧
    resp .rbPeekAvail (at_ 8 4 6 []) = some ([0x00#8, 0x02#8], 8, 4, 6) := by decide

/-- V-R8. -/
theorem test_rb_get : resp .rbGet (at_ 8 4 6 [(4, 0x4D#8)]) = some ([0x00#8, 0x4D#8], 8, 5, 6) := by decide

/-- V-R9: the peek cursor is dragged; `N = 21`. -/
theorem test_rb_get_drags_peek :
    resp .rbGet { at_ 20 0 0 [(0, 0x01#8)] with params := ⟨21, 16, 21, 16⟩ } = some ([0x00#8, 0x01#8], 20, 1, 1) := by
  decide

/-- V-R11. -/
theorem test_rb_sync_peek : resp .rbSyncPeek (at_ 9 4 9 []) = some ([0x00#8], 9, 4, 4) := by decide

/-- V-R12, V-R13. -/
theorem test_rb_peek :
    resp .rbPeek (at_ 8 4 5 [(5, 0x01#8)]) = some ([0x00#8, 0x01#8], 8, 4, 6) ∧
    resp .rbPeek (at_ 20 1 20 []) = some ([0x00#8, 0x00#8], 20, 1, 20) := by decide

/-- V-R14. -/
theorem test_rb_accept : resp .rbAccept (at_ 12 4 9 []) = some ([0x00#8], 12, 9, 9) := by decide

/-- V-K1. -/
theorem test_kr_reset :
    (after (exec .krReset { State.reset with krHead := 5, krTail := 2 })).map (fun t => (t.krHead, t.krTail)) =
    some (0, 0) := by decide

/-- V-K6: `N_KR = 4`. -/
theorem test_kr_push_overflow :
    responses [.krPush 0x01#8, .krPush 0x02#8, .krPush 0x03#8, .krPush 0x04#8]
      { State.reset with params := ⟨64, 4, 21, 16⟩ } =
    [[0x00#8, 0x01#8], [0x00#8, 0x01#8], [0x00#8, 0x01#8], [0x00#8, 0x00#8]] := by decide

/-- V-K4. -/
theorem test_kr_pop :
    responses [.krPop, .krPop, .krPop]
      { State.reset with kr := [(0, 0x05#8), (1, 0x0B#8)], krHead := 2 } =
    [[0x00#8, 0x05#8], [0x00#8, 0x0B#8], [0x00#8, 0x00#8]] := by decide

/-- V-C3, operation form. -/
theorem test_crc16_op :
    (after (exec (.crc16 0xFFFF#16 [0x0D#8, 0x01#8, 0x19#8]) State.reset)).map (·.response) =
    some [0x00#8, 0x2B#8, 0xAD#8] := by decide

/-- V-P1. -/
theorem test_parse_good :
    resp .parse (online [0x4D#8, 0x00#8, 0x59#8, 0xF9#8]) =
    some ([0x00#8, 0x02#8, 0x4D#8, 0x00#8, 0x59#8, 0xF9#8], 4, 4, 4) := by decide

/-- V-P7: the counterexample of 90_conflicts.md C3 stalls. -/
theorem test_parse_stalls :
    resp .parse (online [0x01#8, 0x0D#8, 0x01#8, 0x19#8, 0x2B#8, 0xAD#8]) =
    some ([0x00#8, 0x00#8], 6, 0, 2) := by decide

/-- V-D1. -/
theorem test_dispatch_key :
    (after (exec (.parseDispatch 0x0D#8) (online [0x80#8, 0x01#8, 0x05#8, 0x55#8, 0x84#8]))).map
      (fun t => (t.response, t.keys, t.unmatched)) =
    some ([0x00#8, 0x02#8, 0x01#8, 0x80#8, 0x01#8, 0x05#8, 0x55#8, 0x84#8], [0x05#8], 0#16) := by decide

/-- V-D4, and the counter wraps (R31, R165). -/
theorem test_dispatch_other_wraps :
    (after (exec (.parseDispatch 0x0D#8)
      { online [0x41#8, 0x00#8, 0xF9#8, 0x50#8] with unmatched := 0xFFFF#16 })).map
      (fun t => (t.response.take 3, t.unmatched)) = some ([0x00#8, 0x02#8, 0x05#8], 0#16) := by decide

theorem test_unmatched_read :
    (after (exec .unmatchedRead { State.reset with unmatched := 0x0102#16 })).map (·.response) =
    some [0x00#8, 0x02#8, 0x01#8] := by decide

/-- V-X1: a reserved opcode on the port. -/
theorem test_reserved_opcode_step :
    step (State.reset.hostIssues [0x08#8, 0x12#8]) =
      .next { State.reset.hostIssues [0x12#8] with response := [0xFF#8] } := rfl

/-- R75, R76: the example line of PROG2. -/
theorem test_assembled_line :
    (AsmLine.crcPkt [0x0D#8, 0x01#8, 0x19#8]).words =
      [0x20#8, 0xFF#8, 0xFF#8, 0x03#8, 0x0D#8, 0x01#8, 0x19#8] := by decide

/-- R75: a line of each operand form, and a reserved opcode by `.byte` (PROG3). -/
theorem test_assembled_program :
    assemble [.op .krReset, .op (.krPush 0x01#8), .op .krPop, .byte 0x08#8] =
      [0x10#8, 0x11#8, 0x01#8, 0x12#8, 0x08#8] ∧
    (AsmLine.op (.krPush 0x0D#8)).text = "KR_PUSH 0x0D" := by decide

/-! ### Witnesses -/

/-- Four bytes and a fifth in the buffer, two of them peeked; one key queued; two bytes on the line. -/
def mid : State :=
  { State.reset with
    rb := [(0, 0x4D#8), (1, 0x00#8), (2, 0x59#8), (3, 0xF9#8), (4, 0x16#8)]
    rbHead := 5, rbPeek := 2
    kr := [(0, 0x05#8)], krHead := 1
    linePending := [0x0D#8, 0x01#8], draws := [1] }

/-- The parts of the invariant, each decided. -/
theorem invOf (s : State) (h1 : s.params.Wf) (h2 : s.CursorsInRange)
    (h3 : dist s.params.nRb s.rbTail s.rbPeek ≤ s.rbAvail) (h4 : Memory.wf s.rb) (h5 : Memory.wf s.kr)
    (h6 : ∀ c ∈ s.rb, c.1 < s.params.nRb) (h7 : ∀ c ∈ s.kr, c.1 < s.params.nKr)
    (h8 : ∀ i < s.rbAvail, (Memory.read s.rb ((s.rbTail + i) % s.params.nRb)).isSome)
    (h9 : ∀ i < s.krCount, (Memory.read s.kr ((s.krTail + i) % s.params.nKr)).isSome) : s.Inv :=
  ⟨h1, h2, h3, h4, h5, h6, h7, h8, h9⟩

theorem mid_inv : mid.Inv := by apply invOf <;> decide

theorem reset_inv : State.reset.Inv := by apply invOf <;> decide

/-- A state of the block whose buffer and ring are empty, whatever is on the line. -/
theorem online_inv (bytes : List Byte) : (online bytes).Inv := reset_inv.of_same rfl rfl rfl rfl rfl rfl rfl rfl

/-- For the statements whose hypotheses are the invariant alone, or `Wf` and `CursorsInRange`: `mid` meets them, and
its buffer, lookahead, ring and line are none of them empty. -/
theorem witness_invariant :
    mid.Inv ∧ mid.params.Wf ∧ mid.CursorsInRange ∧
      mid.unconsumed = [0x4D#8, 0x00#8, 0x59#8, 0xF9#8, 0x16#8] ∧ mid.unpeeked = [0x59#8, 0xF9#8, 0x16#8] ∧
      mid.keys = [0x05#8] := by
  refine ⟨mid_inv, ?_⟩; decide

theorem witness_DecodeOfEncode :
    (Instr.crc16 0xFFFF#16 (List.replicate 255 0x00#8)).wellFormed = true ∧ (Instr.rbFill 0xFF#8).wellFormed = true :=
  ⟨test_crc16_with_255_bytes_is_well_formed, rfl⟩

theorem witness_DecodedBytesAreTheEncoding :
    decode [0x20#8, 0x34#8, 0x12#8, 0x01#8, 0xAA#8, 0x30#8] = .op (.crc16 0x1234#16 [0xAA#8]) [0x30#8] := by decide

/-- Each range of R72 at both ends. -/
theorem witness_ReservedOpcodeAnswersIllegal :
    ∀ b ∈ [0x08#8, 0x0F#8, 0x13#8, 0x1F#8, 0x21#8, 0x2F#8, 0x33#8, 0xFF#8],
      let s := mid.hostIssues [b, 0x03#8]
      s.params.Wf ∧ s.CursorsInRange ∧ s.agenda = .issue (b :: [0x03#8]) :: [] ∧
      ((0x08 ≤ b.toNat ∧ b.toNat ≤ 0x0F) ∨ (0x13 ≤ b.toNat ∧ b.toNat ≤ 0x1F) ∨
        (0x21 ≤ b.toNat ∧ b.toNat ≤ 0x2F) ∨ (0x33 ≤ b.toNat ∧ b.toNat ≤ 0xFF)) := by decide

/-- Cut before the operand byte, before `L`, and before the last data byte. -/
theorem witness_TruncatedOpWordRefused :
    ∀ x ∈ [(Instr.krPush 0x05#8, [0x11#8]), (.crc16 0xFFFF#16 [0x0D#8], [0x20#8, 0xFF#8, 0xFF#8]),
        (.crc16 0xFFFF#16 [0x0D#8], [0x20#8, 0xFF#8, 0xFF#8, 0x01#8])],
      let s := mid.hostIssues x.2
      s.params.Wf ∧ s.CursorsInRange ∧ x.1.wellFormed = true ∧ x.2 ≠ [] ∧ x.2 <+: encode x.1 ∧ x.2 ≠ encode x.1 ∧
      s.agenda = .issue x.2 :: [] := by decide

/-- With bytes after the op word, and with none. -/
theorem witness_StepRunsTheDecodedOperation :
    ∀ x ∈ [([0x31#8, 0x0D#8, 0x32#8], [0x32#8]), ([0x31#8, 0x0D#8], [])],
      let s := mid.hostIssues x.1
      s.params.Wf ∧ s.CursorsInRange ∧ s.agenda = .issue x.1 :: [] ∧
      decode x.1 = .op (.parseDispatch 0x0D#8) x.2 := by decide

theorem witness_CommandByteClasses :
    (∀ c ∈ [0x00#8, 0x3F#8], c.toNat ≤ 0x3F) ∧ (∀ c ∈ [0x40#8, 0x7F#8], 0x40 ≤ c.toNat ∧ c.toNat ≤ 0x7F) ∧
    (0x80#8).toNat = 0x80 ∧ ∀ c ∈ [0x81#8, 0xFF#8], 0x81 ≤ c.toNat := by decide

theorem witness_BlockResetMove :
    let s := { mid with agenda := [.blockReset, .issue [0x03#8]] }
    s.params.Wf ∧ s.CursorsInRange ∧ s.agenda = .blockReset :: [.issue [0x03#8]] := by decide

theorem witness_LineDeliversAndIdleBlockStays :
    (mid.params.Wf ∧ mid.CursorsInRange ∧ mid.agenda = []) ∧
    let s := { mid with agenda := [.deliver [0x19#8], .issue [0x30#8]] }
    s.params.Wf ∧ s.CursorsInRange ∧ s.agenda = .deliver [0x19#8] :: [.issue [0x30#8]] := by decide

/-- Each constraint of R6, R7 and R8 missed by one; the least legal instance of each meets them. -/
theorem witness_IllFormedInstanceRefused :
    (∀ p ∈ [Params.mk 20 16 21 16, ⟨257, 16, 21, 16⟩, ⟨64, 1, 21, 16⟩, ⟨64, 257, 21, 16⟩, ⟨64, 16, 64, 16⟩,
        ⟨256, 16, 21, 251⟩],
      p.nRb < p.maxData + 5 ∨ 256 < p.nRb ∨ p.nKr < 2 ∨ 256 < p.nKr ∨ 63 < p.maxCmd ∨ 250 < p.maxData) ∧
    ∀ p ∈ [Params.mk 21 2 0 16, ⟨256, 256, 63, 250⟩, ⟨5, 2, 0, 0⟩], p.Wf := by decide

/-- Both outcomes: an operation, and a truncated op word. -/
theorem witness_StepRefusesOnlyTruncatedWords :
    (mid.hostIssues [0x03#8]).Inv ∧ (mid.hostIssues [0x11#8]).Inv ∧
    step (mid.hostIssues [0x11#8]) = .refused .truncatedOpWord ∧ ∃ t, step (mid.hostIssues [0x03#8]) = .next t :=
  ⟨mid_inv.of_same rfl rfl rfl rfl rfl rfl rfl rfl, mid_inv.of_same rfl rfl rfl rfl rfl rfl rfl rfl, rfl, _, rfl⟩

theorem witness_StepKeepsTheInvariant :
    (mid.hostIssues [0x31#8, 0x0D#8]).Inv ∧ ∃ t, step (mid.hostIssues [0x31#8, 0x0D#8]) = .next t :=
  ⟨mid_inv.of_same rfl rfl rfl rfl rfl rfl rfl rfl, _, rfl⟩

theorem witness_StepKeepsTheConfiguration : ∃ t, step (mid.hostIssues [0x30#8]) = .next t := ⟨_, rfl⟩

theorem witness_CrcCornersAndResidue : 0xAD2B#16 = crc16 [0x0D#8, 0x01#8, 0x19#8] 0xFFFF#16 := by decide

/-- The least and the greatest count. -/
theorem witness_RbFillAdmitsEveryCount :
    mid.Inv ∧ ∀ k ∈ [0, 2], k ≤ (0x10#8).toNat ∧
      k ≤ mid.params.nRb - 1 - dist mid.params.nRb mid.rbTail mid.rbHead ∧ k ≤ mid.linePending.length :=
  ⟨mid_inv, by decide⟩

/-- Tail equal to head, tail before head, and a wrap by one slot. -/
theorem witness_AvailCountsAreCircularDistances :
    (State.reset.params.Wf ∧ State.reset.CursorsInRange ∧ State.reset.rbTail ≤ State.reset.rbHead) ∧
    (mid.params.Wf ∧ mid.CursorsInRange ∧ mid.rbTail ≤ mid.rbHead ∧ mid.rbPeek ≤ mid.rbHead) ∧
    let s := at_ 62 63 63 []
    s.params.Wf ∧ s.CursorsInRange ∧ ¬ s.rbTail ≤ s.rbHead ∧ ¬ s.rbPeek ≤ s.rbHead := by decide

/-- Empty; not empty with the peek cursor ahead; not empty with the peek cursor at the tail. -/
theorem witness_RbGetConsumesTheOldestByte :
    State.reset.rbTail = State.reset.rbHead ∧ (mid.rbTail ≠ mid.rbHead ∧ mid.rbPeek ≠ mid.rbTail) ∧
    mid.rbSyncPeek.rbTail ≠ mid.rbSyncPeek.rbHead ∧ mid.rbSyncPeek.rbPeek = mid.rbSyncPeek.rbTail := by decide

theorem witness_RbPeekReadsTheNextByte :
    State.reset.rbPeek = State.reset.rbHead ∧ mid.rbPeek ≠ mid.rbHead := by decide

theorem witness_UnitsDoNotInterfere :
    (∃ t, exec .parse mid = .next t) ∧ (∃ t, exec (.rbFill 0x02#8) mid = .next t) ∧
    (∃ t, exec .krPop mid = .next t) ∧ ∃ t, exec (.krPush 0x07#8) mid = .next t :=
  ⟨⟨_, rfl⟩, ⟨_, rfl⟩, ⟨_, rfl⟩, _, rfl⟩

/-- Both clauses, the second at the last byte there is. -/
theorem witness_PeekAcceptIsTransactional :
    mid.Inv ∧ mid.unconsumed = 0x4D#8 :: [0x00#8, 0x59#8, 0xF9#8, 0x16#8] ∧ 4 < mid.unconsumed.length ∧
      mid.unconsumed[4]? = some 0x16#8 := ⟨mid_inv, by decide⟩

theorem witness_FillsAndGetsKeepByteOrder :
    mid.Inv ∧ ∀ i ∈ [Instr.rbGet, .rbFill 0x10#8, .rbPeek, .krPop, .rbGet],
      i ≠ .rbReset ∧ i ≠ .rbAccept ∧ i ≠ .parse ∧ ∀ q, i ≠ .parseDispatch q :=
  ⟨mid_inv, by simp⟩

/-- A ring that has room, and a full one (V-K3). -/
theorem witness_KrPushStoresOrDrops :
    (mid.krHead + 1) % mid.params.nKr ≠ mid.krTail ∧
    ({ mid with krHead := 15 }.krHead + 1) % mid.params.nKr = mid.krTail := by decide

theorem witness_KrPopRemovesTheOldest :
    State.reset.krHead = State.reset.krTail ∧ mid.krHead ≠ mid.krTail := by decide

theorem witness_KeyRingIsFifoAndOverflowDropsTheNew :
    State.reset.Inv ∧ State.reset.krHead = State.reset.krTail ∧
      (List.replicate 15 0x07#8).length = State.reset.params.nKr - 1 := ⟨reset_inv, by decide⟩

/-- An operation of the first kind, and a PARSE_DISPATCH that does add a code (V-D1). -/
theorem witness_KeyRingProducers :
    (mid.Inv ∧ ∃ t, exec .parse mid = .next t) ∧
    (online [0x80#8, 0x01#8, 0x05#8, 0x55#8, 0x84#8]).Inv ∧
    ∃ t, exec (.parseDispatch 0x0D#8) (online [0x80#8, 0x01#8, 0x05#8, 0x55#8, 0x84#8]) = .next t ∧
      t.keys = [0x05#8] :=
  ⟨⟨mid_inv, _, rfl⟩, online_inv _, _, rfl, by decide⟩

/-- What a PARSE from an empty buffer with full fills sees. -/
def seen (bytes : List Byte) : List Byte :=
  (online bytes).unconsumed ++
    (online bytes).linePending.take ((online bytes).fillCount (online bytes).params.maxData)

/-- Every row of R171 at the bounds: 3 bytes; id 22; length 17; one byte short; complete with the right CRC; complete
with a wrong one (V-P9, V-P3, V-P4, V-P6, V-P2, V-P5). -/
theorem witness_ParseCursorEffects :
    (∀ bytes, (online bytes).Inv) ∧
    (seen [0x4D#8, 0x00#8, 0x59#8]).length < 4 ∧
    (seen [0x16#8, 0x00#8, 0x01#8, 0x19#8] = 0x16#8 :: 0x00#8 :: [0x01#8, 0x19#8] ∧ 21 < (0x16#8).toNat % 64) ∧
    (seen [0x55#8, 0x11#8, 0x01#8, 0x19#8] = 0x55#8 :: 0x11#8 :: [0x01#8, 0x19#8] ∧
      (0x55#8).toNat % 64 ≤ 21 ∧ 16 < (0x11#8).toNat) ∧
    (seen [0x0D#8, 0x01#8, 0x19#8, 0x2B#8] = 0x0D#8 :: 0x01#8 :: [0x19#8, 0x2B#8] ∧
      (seen [0x0D#8, 0x01#8, 0x19#8, 0x2B#8]).length < (0x01#8).toNat + 4) ∧
    (seen [0x0D#8, 0x01#8, 0x19#8, 0x2B#8, 0xAD#8] = 0x0D#8 :: 0x01#8 :: ([0x19#8] ++ 0x2B#8 :: 0xAD#8 :: []) ∧
      crc16 (0x0D#8 :: 0x01#8 :: [0x19#8]) 0xFFFF#16 = le16 0x2B#8 0xAD#8) ∧
    (seen [0x0D#8, 0x01#8, 0x19#8, 0x2A#8, 0xAD#8] = 0x0D#8 :: 0x01#8 :: ([0x19#8] ++ 0x2A#8 :: 0xAD#8 :: []) ∧
      crc16 (0x0D#8 :: 0x01#8 :: [0x19#8]) 0xFFFF#16 ≠ le16 0x2A#8 0xAD#8) :=
  ⟨online_inv, by decide⟩

/-- Four bytes in the buffer and sixteen more on the line: exactly `MAX_DATA + 4`. -/
theorem witness_ParseProgress :
    let s := { at_ 4 0 0 [(0, 0x15#8), (1, 0x10#8), (2, 0x00#8), (3, 0x01#8)] with
      linePending := List.replicate 16 0x02#8 }
    s.Inv ∧ s.params.maxData + 4 ≤
      (s.unconsumed ++ s.linePending.take (s.fillCount s.params.maxData)).length := by
  refine ⟨?_, by decide⟩
  apply invOf <;> decide

theorem witness_GoodMessagesAreSound :
    (online [0x4D#8, 0x00#8, 0x59#8, 0xF9#8]).Inv ∧
    ∃ t, exec .parse (online [0x4D#8, 0x00#8, 0x59#8, 0xF9#8]) = .next t ∧
      t.response = 0x00#8 :: 0x02#8 :: 0x4D#8 :: 0x00#8 :: [0x59#8, 0xF9#8] := ⟨online_inv _, _, rfl, by decide⟩

/-- Type tag `11` at the greatest id. -/
theorem witness_TxFrameIsFramed :
    (online (txFrame 0xD5#8 [0x19#8] ++ [0x16#8])).Inv ∧ (0xD5#8).toNat % 64 ≤ 21 ∧ [0x19#8].length ≤ 16 ∧
    seen (txFrame 0xD5#8 [0x19#8] ++ [0x16#8]) = txFrame 0xD5#8 [0x19#8] ++ [0x16#8] :=
  ⟨online_inv _, by decide⟩

theorem witness_GarbageCostsOneTryAgainPerByte :
    let s := at_ 5 0 0 [(0, 0x3F#8), (1, 0x16#8), (2, 0x0D#8), (3, 0x01#8), (4, 0x19#8)]
    s.Inv ∧ s.unconsumed = [0x3F#8, 0x16#8] ++ [0x0D#8, 0x01#8, 0x19#8] ∧
      ∀ b ∈ [0x3F#8, 0x16#8], s.params.maxCmd < b.toNat % 64 := by
  refine ⟨?_, by decide⟩
  apply invOf <;> decide

/-- The response of a PARSE from an empty buffer with full fills. -/
def parsed (bytes : List Byte) : Option (List Byte) := (after (exec .parse (online bytes))).map (·.response)

/-- Every class of R164: no message; a key event without data; one with data, on a ring with room and on a full one;
an acknowledgement; another packet; tag `11` equal to `0x40 | q` (V-D9, V-D5, V-D1, V-D6, V-D2, V-D7, V-P10). -/
theorem witness_DispatchClassifiesTheParse :
    parsed [] = some [0x00#8, 0x00#8] ∧
    parsed [0x80#8, 0x00#8, 0x8B#8, 0x83#8] =
      some (0x00#8 :: 0x02#8 :: 0x80#8 :: 0x00#8 :: [0x8B#8, 0x83#8]) ∧
    parsed [0x80#8, 0x01#8, 0x05#8, 0x55#8, 0x84#8] =
      some (0x00#8 :: 0x02#8 :: 0x80#8 :: 0x01#8 :: [0x05#8, 0x55#8, 0x84#8]) ∧
    (State.reset.krHead + 1) % State.reset.params.nKr ≠ State.reset.krTail ∧
    ({ State.reset with krHead := 15 }.krHead + 1) % State.reset.params.nKr = State.reset.krTail ∧
    parsed [0x4D#8, 0x00#8, 0x59#8, 0xF9#8] =
      some (0x00#8 :: 0x02#8 :: 0x4D#8 :: 0x00#8 :: [0x59#8, 0xF9#8]) ∧ 0x4D#8 = 0x40#8 ||| 0x0D#8 ∧
    parsed [0x81#8, 0x01#8, 0x05#8, 0x89#8, 0xDE#8] =
      some (0x00#8 :: 0x02#8 :: 0x81#8 :: 0x01#8 :: [0x05#8, 0x89#8, 0xDE#8]) ∧ 0x81#8 ≠ 0x40#8 ||| 0x0D#8 ∧
    parsed [0xC1#8, 0x00#8, 0x35#8, 0xDC#8] =
      some (0x00#8 :: 0x02#8 :: 0xC1#8 :: 0x00#8 :: [0x35#8, 0xDC#8]) ∧ 0xC1#8 = 0x40#8 ||| 0x81#8 := by
  decide

/-- The class and command bytes of a PARSE_DISPATCH `q` from an empty buffer with full fills. -/
def dispatched (q : Byte) (bytes : List Byte) : Option (List Byte) :=
  (after (exec (.parseDispatch q) (online bytes))).map (fun t => (t.response.drop 1).take 3)

/-- Every class of a good packet (V-D1, V-D6, V-D5, V-D2, V-D7), and tag `11` equal to `0x40 | q` (V-P10 with
`q = 0x81`), which R74 classifies OTHER. -/
theorem witness_KeyEventIsNoAcknowledgement :
    dispatched 0x0D#8 [0x80#8, 0x01#8, 0x05#8, 0x55#8, 0x84#8] = some [0x02#8, 0x01#8, 0x80#8] ∧
    (after (exec (.parseDispatch 0x0D#8)
      { online [0x80#8, 0x01#8, 0x05#8, 0x55#8, 0x84#8] with krHead := 15 })).map
      (fun t => (t.response.drop 1).take 3) = some [0x02#8, 0x02#8, 0x80#8] ∧
    dispatched 0x0D#8 [0x80#8, 0x00#8, 0x8B#8, 0x83#8] = some [0x02#8, 0x03#8, 0x80#8] ∧
    dispatched 0x0D#8 [0x4D#8, 0x00#8, 0x59#8, 0xF9#8] = some [0x02#8, 0x04#8, 0x4D#8] ∧
    dispatched 0x81#8 [0xC1#8, 0x00#8, 0x35#8, 0xDC#8] = some [0x02#8, 0x05#8, 0xC1#8] ∧
    dispatched 0x0D#8 [0x81#8, 0x01#8, 0x05#8, 0x89#8, 0xDE#8] = some [0x02#8, 0x05#8, 0x81#8] := by decide

/-- Undefined tags (V-P10, V-D7) with `q` at both ends of bit 7 clear, and with `q` of bit 7 set: another packet, and
the one that equals `0x40 | q`. -/
theorem witness_UndefinedTagsAreOther :
    dispatched 0x0D#8 [0xC1#8, 0x00#8, 0x35#8, 0xDC#8] = some [0x02#8, 0x05#8, 0xC1#8] ∧
    dispatched 0x7F#8 [0xC1#8, 0x00#8, 0x35#8, 0xDC#8] = some [0x02#8, 0x05#8, 0xC1#8] ∧
    dispatched 0x00#8 [0x81#8, 0x01#8, 0x05#8, 0x89#8, 0xDE#8] = some [0x02#8, 0x05#8, 0x81#8] ∧
    dispatched 0x80#8 [0xC1#8, 0x00#8, 0x35#8, 0xDC#8] = some [0x02#8, 0x05#8, 0xC1#8] ∧
    dispatched 0x81#8 [0xC1#8, 0x00#8, 0x35#8, 0xDC#8] = some [0x02#8, 0x05#8, 0xC1#8] ∧ 0xC1#8 = ackOf 0x81#8 := by
  decide

/-- An OTHER packet, which is counted (V-D4). -/
theorem witness_UnmatchedCountsExactlyOther :
    (after (exec (.parseDispatch 0x0D#8) (online [0x41#8, 0x00#8, 0xF9#8, 0x50#8]))).map (·.response.take 3) =
    some [0x00#8, 0x02#8, 0x05#8] := by decide

/-- Half a reply: the first turn sleeps, the second finds the deadline passed. -/
theorem witness_TimeoutKeepsTheLateReply :
    (online [0x4D#8]).Inv ∧
    ∃ t, sendLoop (HostParams.reference .wait) 0x0D#8 250 [⟨0, []⟩, ⟨0, [0x00#8]⟩] 0 (online [0x4D#8]) =
      .returned .timedOut t ∧ t.unconsumed = [0x4D#8, 0x00#8] := ⟨online_inv _, _, rfl, by decide⟩

/-- V-E1 and the siphoning scenario of V-D3, the acknowledgement arriving in two parts. -/
theorem witness_KeyEventSiphoning :
    (online []).Inv ∧ (HostParams.reference .wait).mode = .wait ∧ (online []).rbTail = (online []).rbHead ∧
    (online []).linePending = [] ∧ (online []).krHead = (online []).krTail ∧ 1 ≤ (online []).params.maxData ∧
    ([] : List Byte).length ≤ (online []).params.maxData ∧ (0x0D#8).toNat ≤ (online []).params.maxCmd ∧
    [Tick.mk 1 [0x80#8, 0x01#8, 0x05#8, 0x55#8, 0x84#8, 0x4D#8], ⟨1, [0x00#8, 0x59#8, 0xF9#8]⟩].flatMap Tick.arrived =
      txFrame 0x80#8 [0x05#8] ++ txFrame (0x40#8 ||| 0x0D#8) [] ∧
    ∃ t, sendLoop (HostParams.reference .wait) 0x0D#8 250000
      [Tick.mk 1 [0x80#8, 0x01#8, 0x05#8, 0x55#8, 0x84#8, 0x4D#8], ⟨1, [0x00#8, 0x59#8, 0xF9#8]⟩] 0 (online []) =
      .returned .acknowledged t ∧ t.keys = [0x05#8] :=
  ⟨online_inv _, rfl, rfl, rfl, rfl, by decide, by decide, by decide, by decide, _, rfl, by decide⟩

end Sys2Proof.Tests
end

namespace Sys2Proof.Machine

/-! ### What every operation and every step keep (00_scope.md R16, 10_state.md R36, 60_exceptions.md R200, R201) -/

/-- The dispatch of a packet writes the Key Ring and `UNMATCHED` only (R160). -/
theorem dispatch_keeps_params_agenda (q : Byte) (r : ParseResult) (s : State) :
    (dispatch q r s).params = s.params ∧ (dispatch q r s).agenda = s.agenda := by
  unfold dispatch
  split
  · exact ⟨rfl, rfl⟩
  · exact ⟨rfl, rfl⟩
  · split
    · split
      · exact ⟨rfl, rfl⟩
      · exact ⟨State.krPush_params s _, State.krPush_agenda s _⟩
    · split <;> exact ⟨rfl, rfl⟩

/-- PARSE keeps the configuration and the agenda, in every state: its fill does, and so do the steps after it. -/
theorem parseBody_keeps_params_agenda (s : State) :
    (parseBody s).2.params = s.params ∧ (parseBody s).2.agenda = s.agenda :=
  ⟨(parseBody_same s).params.trans (State.rbFill_params s _), (parseBody_same s).agenda.trans (State.rbFill_agenda s _)⟩

/-- What all fifteen operations have in common: each ends in `respond(OK, fields)` (R15), at a state with the
configuration and the agenda it started from. -/
theorem exec_eq_next_respond (i : Instr) (s : State) :
    ∃ (u : State) (fields : List Byte),
      exec i s = .next (u.respond fields) ∧ u.params = s.params ∧ u.agenda = s.agenda := by
  cases i with
  | rbReset => exact ⟨_, _, rfl, rfl, rfl⟩
  | rbFill a => exact ⟨_, _, rfl, State.rbFill_params s _, State.rbFill_agenda s _⟩
  | rbAvail => exact ⟨_, _, rfl, rfl, rfl⟩
  | rbGet => exact ⟨_, _, rfl, State.rbGet_params s, State.rbGet_agenda s⟩
  | rbPeekAvail => exact ⟨_, _, rfl, rfl, rfl⟩
  | rbSyncPeek => exact ⟨_, _, rfl, rfl, rfl⟩
  | rbPeek => exact ⟨_, _, rfl, State.rbPeekNext_params s, State.rbPeekNext_agenda s⟩
  | rbAccept => exact ⟨_, _, rfl, rfl, rfl⟩
  | krReset => exact ⟨_, _, rfl, rfl, rfl⟩
  | krPush v => exact ⟨_, _, rfl, State.krPush_params s _, State.krPush_agenda s _⟩
  | krPop => exact ⟨_, _, rfl, State.krPop_params s, State.krPop_agenda s⟩
  | crc16 seed bytes => exact ⟨_, _, rfl, rfl, rfl⟩
  | parse => exact ⟨_, _, rfl, parseBody_keeps_params_agenda s⟩
  | parseDispatch q =>
    obtain ⟨hparams, hagenda⟩ := dispatch_keeps_params_agenda q (parseBody s).1 (parseBody s).2
    obtain ⟨hparams', hagenda'⟩ := parseBody_keeps_params_agenda s
    exact ⟨_, _, rfl, hparams.trans hparams', hagenda.trans hagenda'⟩
  | unmatchedRead => exact ⟨_, _, rfl, rfl, rfl⟩

/-- No operation changes the configuration (R36). -/
theorem exec_keeps_params {i : Instr} {s t : State} (h : exec i s = .next t) : t.params = s.params := by
  obtain ⟨u, fields, hu, hparams, -⟩ := exec_eq_next_respond i s
  cases hu.symm.trans h
  exact hparams

/-- Settles O17: an operation keeps the configuration, and no other move of a step writes it. -/
theorem stepKeepsTheConfiguration : Obligations.StepKeepsTheConfiguration := by
  intro s t h
  obtain ⟨-, -, hidle | hdeliver | hreset | hnone | hillegal | hrun⟩ := step_next_cases h
  · rw [hidle]
  · obtain ⟨_, _, -, rfl⟩ := hdeliver; rfl
  · obtain ⟨_, -, rfl⟩ := hreset; rfl
  · obtain ⟨_, -, rfl⟩ := hnone; rfl
  · obtain ⟨_, _, _, _, -, -, rfl⟩ := hillegal; rfl
  · obtain ⟨_, _, _, _, -, -, hexec⟩ := hrun
    exact (exec_keeps_params hexec).trans rfl

/-- Settles O18, from the form every operation's next state has. -/
theorem everyOperationCompletesWithStatusOk : Obligations.EveryOperationCompletesWithStatusOk := by
  intro i s
  obtain ⟨u, fields, hu, -, hagenda⟩ := exec_eq_next_respond i s
  exact ⟨u.respond fields, hu, rfl, hagenda⟩

/-! ### The count a fill takes (41_rxbuf.md R112) -/

/-- The state with the next fills' draws written down (R15, log entry 3). -/
def State.withDraws (s : State) (draws : List Nat) : State := { s with draws := draws }

/-- The invariant does not speak of the draws. -/
theorem State.Inv.withDraws {s : State} (h : s.Inv) (draws : List Nat) : (s.withDraws draws).Inv :=
  h.of_same rfl rfl rfl rfl rfl rfl rfl rfl

/-- A draw within the limit is the count the next fill takes. -/
theorem State.fillCount_withDraws (s : State) {m k : Nat} (draws : List Nat) (hk : k ≤ s.fillLimit m) :
    (s.withDraws (k :: draws)).fillCount m = k :=
  Nat.min_eq_left hk

/-- Settles O27: the draw `k` itself makes the fill take `k` bytes, and `rbFill_spec` says what becomes of them. -/
theorem rbFillAdmitsEveryCount : Obligations.RbFillAdmitsEveryCount := by
  intro s maxBytes k hinv hmax hfree hline
  have hcount : (s.withDraws [k]).fillCount maxBytes.toNat = k :=
    s.fillCount_withDraws [] (le_min hmax (le_min hfree hline))
  obtain ⟨-, -, hunconsumed⟩ := State.rbFill_spec (hinv.withDraws [k]) maxBytes.toNat
  have hpending := State.rbFill_linePending (s.withDraws [k]) maxBytes.toNat
  rw [State.fillTaken, hcount] at hunconsumed
  rw [hcount] at hpending
  have hresponse : [countByte ((s.withDraws [k]).fillCount maxBytes.toNat)] = [BitVec.ofNat 8 k] := by
    rw [hcount, countByte]
  exact ⟨[k], _, rfl, congrArg (statusOk :: ·) hresponse, hpending, hunconsumed⟩

/-! ### Whose turn it is (00_scope.md R16, 20_memory.md R52, 93_implementation_defined.md U12) -/

/-- Bytes that decode to an operation on the host port: it runs, and the port moves past its op word (R68, R72). -/
theorem portTurn_of_decode_op {bytes rest : List Byte} {i : Instr} (s : State) (moves : List Move)
    (h : decode bytes = .op i rest) : portTurn s bytes moves = .run i { s with agenda := portRest rest moves } := by
  match bytes, h with
  | b :: bs, h => simp [portTurn, h]

/-- What stays on the port after an op word, by whether any bytes follow it (R72). -/
theorem portRest_eq_ite (rest : List Byte) (moves : List Move) :
    portRest rest moves = if rest = [] then moves else .issue rest :: moves := by
  simp [portRest]

/-- Settles O6: past the two checks it is the host port's turn, and a step runs what the port decodes to. -/
theorem stepRunsTheDecodedOperation : Obligations.StepRunsTheDecodedOperation := by
  intro s bytes i rest moves hwf hcursors hagenda hdecode
  have hturn : nextTurn s = .run i { s with agenda := portRest rest moves } := by
    rw [nextTurn_of_ready hwf hcursors, hagenda]
    exact portTurn_of_decode_op s moves hdecode
  rw [step_run hturn, portRest_eq_ite]

/-- Settles O13: each of the six violations contradicts a conjunct of `Params.Wf`, the first check of a step. -/
theorem illFormedInstanceRefused : Obligations.IllFormedInstanceRefused := by
  intro s hviolated
  exact step_stop (nextTurn_illFormed fun hwf => by omega)

end Sys2Proof.Machine

namespace Sys2Proof.Machine

/-! ### What each move of a step does to the invariant (10_state.md R25, R28, 41_rxbuf.md R122) -/

section
variable {s t : State}

/-- The agenda is the model's own: the invariant does not speak of it. -/
theorem State.Inv.withAgenda (h : s.Inv) (moves : List Move) : State.Inv { s with agenda := moves } :=
  h.of_same rfl rfl rfl rfl rfl rfl rfl rfl

/-- Emptying the Receive Buffer (R111) leaves no unconsumed byte, so none that must have been written. -/
theorem State.Inv.rbEmptied (h : s.Inv) : State.Inv { s with rbHead := 0, rbTail := 0, rbPeek := 0 } := by
  obtain ⟨-, -, -, hkrCursors⟩ := h.cursors
  exact
    { h with
      cursors := ⟨h.nRb_pos, h.nRb_pos, h.nRb_pos, hkrCursors⟩
      peekBetween := by simp
      rbWritten := by simp [State.rbAvail] }

/-- Emptying the Key Ring (R140) leaves no queued code, so none that must have been written. -/
theorem State.Inv.krEmptied (h : s.Inv) : State.Inv { s with krHead := 0, krTail := 0 } := by
  obtain ⟨hrbHead, hrbTail, hrbPeek, -, -⟩ := h.cursors
  exact
    { h with
      cursors := ⟨hrbHead, hrbTail, hrbPeek, h.nKr_pos, h.nKr_pos⟩
      krWritten := by simp [State.krCount] }

/-- A block reset empties both units and keeps their slots (R37). -/
theorem State.blockReset_inv (h : s.Inv) : s.blockReset.Inv :=
  h.rbEmptied.krEmptied.of_same rfl rfl rfl rfl rfl rfl rfl rfl

/-- A reserved opcode changes the response alone (R72). -/
theorem State.respondIllegal_inv (h : s.Inv) : s.respondIllegal.Inv :=
  h.of_same rfl rfl rfl rfl rfl rfl rfl rfl

/-- Every operation keeps the invariant: each ends in `respond` at a state that its shared operation, or emptying a
unit, leaves in the invariant. -/
theorem exec_inv {i : Instr} (hs : s.Inv) (h : exec i s = .next t) : t.Inv := by
  cases i <;> cases h <;> refine State.respond_inv ?_ _
  case rbReset => exact hs.rbEmptied
  case rbFill maxBytes => exact (State.rbFill_spec hs _).1
  case rbGet => exact State.rbGet_inv hs
  case rbSyncPeek => exact State.rbSyncPeek_inv hs
  case rbPeek => exact State.rbPeekNext_inv hs
  case rbAccept => exact State.rbAccept_inv hs
  case krReset => exact hs.krEmptied
  case krPush v => exact State.krPush_inv hs v
  case krPop => exact (State.krPop_spec hs).1
  case parse => exact parseBody_inv hs
  case parseDispatch q => exact dispatch_inv (parseBody_inv hs) q _
  case rbAvail | rbPeekAvail | crc16 | unmatchedRead => exact hs

end

/-- Settles O15: nothing is buffered and no slot is listed, so only the reference parameters need a check. -/
theorem invariantHoldsAtReset : Obligations.InvariantHoldsAtReset where
  params := by decide
  cursors := by decide
  peekBetween := by decide
  rbCanonical := List.Pairwise.nil
  krCanonical := List.Pairwise.nil
  rbSlots := by simp [State.reset]
  krSlots := by simp [State.reset]
  rbWritten := by simp [State.reset, State.rbAvail]
  krWritten := by simp [State.reset, State.krCount]

/-- Settles O16: each way to a next state keeps the invariant, the operations by `exec_inv`. -/
theorem stepKeepsTheInvariant : Obligations.StepKeepsTheInvariant := by
  intro s t hs h
  obtain ⟨-, -, hidle | hdeliver | hreset | hnone | hillegal | hrun⟩ := step_next_cases h
  · rw [hidle]; exact hs
  · obtain ⟨bytes, moves, -, rfl⟩ := hdeliver
    exact State.lineAppend_inv (hs.withAgenda moves) bytes
  · obtain ⟨moves, -, rfl⟩ := hreset
    exact State.blockReset_inv (hs.withAgenda moves)
  · obtain ⟨moves, -, rfl⟩ := hnone
    exact hs.withAgenda moves
  · obtain ⟨_, moves, _, rest, -, -, rfl⟩ := hillegal
    exact State.respondIllegal_inv (hs.withAgenda (portRest rest moves))
  · obtain ⟨_, moves, _, rest, -, -, hexec⟩ := hrun
    exact exec_inv (hs.withAgenda (portRest rest moves)) hexec

/-! ### Who writes the Key Ring and `UNMATCHED` (10_state.md R31, 42_keyring.md R144, 43_framer.md R163) -/

/-- What a dispatch does, with its class: counting a packet goes with class OTHER alone, and a push with another
class (R160, R164). -/
theorem dispatch_cases (q : Byte) (r : ParseResult) (s : State) :
    (classify q r s ≠ .other ∧ (dispatch q r s = s ∨ ∃ v, dispatch q r s = s.krPush v)) ∨
    (r.code = resultGoodMsg ∧ classify q r s = .other ∧
      dispatch q r s = { s with unmatched := s.unmatched + 1#16 }) := by
  cases r with
  | giveUp => exact .inl ⟨by simp [classify], .inl rfl⟩
  | tryAgain => exact .inl ⟨by simp [classify], .inl rfl⟩
  | goodMsg p =>
    by_cases hkey : p.command = keyEventCmd
    · cases hdata : p.data with
      | nil => exact .inl ⟨by simp [classify, hkey, hdata], .inl (by simp [dispatch, hkey, hdata])⟩
      | cons v vs =>
        refine .inl ⟨?_, .inr ⟨v, by simp [dispatch, hkey, hdata]⟩⟩
        cases hfull : s.krFull <;> simp [classify, hkey, hdata, hfull]
    · cases hack : isExpectedAck q p.command with
      | true => exact .inl ⟨by simp [classify, hkey, hack], .inl (by simp [dispatch, hkey, hack])⟩
      | false => exact .inr ⟨rfl, by simp [classify, hkey, hack], by simp [dispatch, hkey, hack]⟩

/-- The queued codes are read off the ring's slots and cursors. -/
theorem State.keys_congr {s t : State} (hparams : t.params = s.params) (hkr : t.kr = s.kr)
    (hhead : t.krHead = s.krHead) (htail : t.krTail = s.krTail) : t.keys = s.keys := by
  simp only [State.keys, State.krCount, State.krSlot, hparams, hkr, hhead, htail]

/-- A push adds at most its code, at the end (R141). -/
theorem State.krPush_keys {s : State} (h : s.Inv) (v : Byte) :
    (s.krPush v).keys = s.keys ∨ (s.krPush v).keys = s.keys ++ [v] := by
  cases hfull : s.krFull with
  | true => exact .inl (by rw [State.krPush_full v hfull])
  | false => exact .inr (State.krPush_spec h v hfull).2.2

/-- A dispatch adds at most one code, at the end (R161). -/
theorem dispatch_keys {s : State} (h : s.Inv) (q : Byte) (r : ParseResult) :
    (dispatch q r s).keys = s.keys ∨ ∃ v, (dispatch q r s).keys = s.keys ++ [v] := by
  obtain ⟨-, hsame | ⟨v, hpush⟩⟩ | ⟨-, -, hcount⟩ := dispatch_cases q r s
  · exact .inl (by rw [hsame])
  · rw [hpush]; exact (State.krPush_keys h v).imp_right fun hv => ⟨v, hv⟩
  · exact .inl (by rw [hcount]; rfl)

/-- PARSE leaves the Key Ring as it was (R150). -/
theorem parseBody_keeps_keyRing (s : State) :
    (parseBody s).2.kr = s.kr ∧ (parseBody s).2.krHead = s.krHead ∧ (parseBody s).2.krTail = s.krTail := by
  have hsame := parseBody_same s
  exact ⟨hsame.kr.trans (State.rbFill_kr s _), hsame.krHead.trans (State.rbFill_krHead s _),
    hsame.krTail.trans (State.rbFill_krTail s _)⟩

/-- PARSE leaves the queued codes as they were. -/
theorem parseBody_keys (s : State) : (parseBody s).2.keys = s.keys := by
  obtain ⟨hkr, hhead, htail⟩ := parseBody_keeps_keyRing s
  exact State.keys_congr (parseBody_keeps_params_agenda s).1 hkr hhead htail

/-- PARSE leaves `UNMATCHED` as it was (R150). -/
theorem parseBody_keeps_unmatched (s : State) : (parseBody s).2.unmatched = s.unmatched :=
  (parseBody_same s).unmatched.trans (State.rbFill_unmatched s _)

/-- The operations outside the Key Ring unit, but PARSE_DISPATCH, leave the ring as it was (R144). -/
theorem exec_keeps_keyRing {i : Instr} {s t : State} (h : exec i s = .next t) (hreset : i ≠ .krReset)
    (hpop : i ≠ .krPop) (hpush : ∀ v, i ≠ .krPush v) (hdispatch : ∀ q, i ≠ .parseDispatch q) :
    t.kr = s.kr ∧ t.krHead = s.krHead ∧ t.krTail = s.krTail := by
  cases i with
  | krReset => exact absurd rfl hreset
  | krPop => exact absurd rfl hpop
  | krPush v => exact absurd rfl (hpush v)
  | parseDispatch q => exact absurd rfl (hdispatch q)
  | parse => cases h; exact parseBody_keeps_keyRing s
  | rbReset | rbFill | rbAvail | rbGet | rbPeekAvail | rbSyncPeek | rbPeek | rbAccept | crc16 | unmatchedRead =>
    cases h; simp

/-- Settles O39: the frame of the other operations, and PARSE_DISPATCH as PARSE followed by a dispatch. -/
theorem keyRingProducers : Obligations.KeyRingProducers := by
  intro i s t hs h
  refine ⟨exec_keeps_keyRing h, ?_⟩
  rintro q rfl
  cases h
  have hkeys := dispatch_keys (parseBody_inv hs) q (parseBody s).1
  rwa [parseBody_keys] at hkeys

/-- The operations but PARSE_DISPATCH leave `UNMATCHED` as it was (R31). -/
theorem exec_keeps_unmatched {i : Instr} {s t : State} (h : exec i s = .next t)
    (hdispatch : ∀ q, i ≠ .parseDispatch q) : t.unmatched = s.unmatched := by
  cases i with
  | parseDispatch q => exact absurd rfl (hdispatch q)
  | parse => cases h; exact parseBody_keeps_unmatched s
  | rbReset | rbFill | rbAvail | rbGet | rbPeekAvail | rbSyncPeek | rbPeek | rbAccept | krReset | krPush | krPop
  | crc16 | unmatchedRead => cases h; simp

/-- The class byte tells OTHER from the other classes (R164). -/
theorem PacketClass.code_eq_other_iff (c : PacketClass) : c.code = 0x05#8 ↔ c = .other := by
  cases c <;> decide

/-- A PARSE_DISPATCH counts the packets it answers with class OTHER, and nothing else (R31, R163). -/
theorem afterDispatch_unmatched (q : Byte) (s : State) :
    (afterDispatch q s).unmatched = s.unmatched +
      (if (afterDispatch q s).response.getD 1 0x00#8 = 0x02#8 ∧ (afterDispatch q s).response.getD 2 0x00#8 = 0x05#8
        then 1#16 else 0#16) := by
  have hparse := parseBody_keeps_unmatched s
  simp only [afterDispatch_response, List.getD_cons_succ, List.getD_cons_zero, PacketClass.code_eq_other_iff]
  simp only [afterDispatch, State.respond_unmatched]
  obtain ⟨hother, hsame | ⟨v, hpush⟩⟩ | ⟨hgood, hother, hcount⟩ := dispatch_cases q (parseBody s).1 (parseBody s).2
  · simp [hother, hsame, hparse]
  · simp [hother, hpush, hparse]
  · simp [hother, hcount, hparse, hgood, resultGoodMsg]

/-- Settles O51: the frame of the other operations, and the count of PARSE_DISPATCH. -/
theorem unmatchedCountsExactlyOther : Obligations.UnmatchedCountsExactlyOther := by
  intro i s
  by_cases hdispatch : ∃ q, i = .parseDispatch q
  · obtain ⟨q, rfl⟩ := hdispatch
    exact ⟨_, exec_parseDispatch q s, by simpa using afterDispatch_unmatched q s⟩
  · obtain ⟨u, fields, hu, -, -⟩ := exec_eq_next_respond i s
    have hkept := exec_keeps_unmatched hu (not_exists.1 hdispatch)
    exact ⟨_, hu, by simpa [hdispatch] using hkept⟩

/-! ### The op word the host presents first (30_encoding.md R69, R70, 70_reset_and_hazards.md R240) -/

/-- A 16-bit value survives the host port's byte order (R43, R69). -/
@[simp] theorem le16_lo8_hi8 (w : Word16) : le16 (lo8 w) (hi8 w) = w := by
  apply BitVec.eq_of_getLsbD_eq
  intro i hi
  by_cases hlow : i < 8
  · simp [le16, zext16, lo8, hi8, hlow, hi]
  · simp [le16, zext16, lo8, hi8, hlow, hi, show i - 8 < 8 by omega, show 8 + (i - 8) = i by omega]

/-- A count that fits a byte survives the host port (R69). -/
theorem countByte_toNat {n : Nat} (h : n ≤ 255) : (countByte n).toNat = n := by
  rw [countByte, BitVec.toNat_ofNat]; omega

/-- The op word of an operation decodes to it, whatever follows (R69, R70): by its opcode, and for CRC16 by the seed
and the count of data bytes as well. -/
theorem decode_encode_append {i : Instr} (h : i.wellFormed = true) (rest : List Byte) :
    decode (encode i ++ rest) = .op i rest := by
  cases i with
  | crc16 seed bytes =>
    have hcount := countByte_toNat (of_decide_eq_true h)
    simp [encode, decode, decodeOpCrc, hcount]
  | rbReset | rbFill | rbAvail | rbGet | rbPeekAvail | rbSyncPeek | rbPeek | rbAccept | krReset | krPush | krPop
  | parse | parseDispatch | unmatchedRead => rfl

/-- Settles O10: the cursors, the counter and the slots are the fields of `State.reset`, and the op word presented
first decodes to the operation that runs. -/
theorem powerOnResetState : Obligations.PowerOnResetState := by
  refine ⟨rfl, rfl, rfl, rfl, rfl, rfl, rfl, fun a => ⟨rfl, rfl⟩, fun i hi => ?_⟩
  have hreset := invariantHoldsAtReset
  have hdecode : decode (encode i) = .op i [] := by simpa using decode_encode_append hi []
  exact stepRunsTheDecodedOperation (State.reset.hostIssues (encode i)) (encode i) i [] []
    hreset.params hreset.cursors rfl hdecode

/-! ### The other moves of a step (10_state.md R20, R32, R37, 60_exceptions.md R222) -/

/-- Settles O11: a reset on the agenda is the step's move, and `blockReset` says which fields it clears. -/
theorem blockResetMove : Obligations.BlockResetMove := by
  intro s moves hwf hcursors hagenda
  have hturn : nextTurn s = .settled (State.blockReset { s with agenda := moves }) := by
    rw [nextTurn_of_ready hwf hcursors, hagenda]
  exact ⟨_, step_settled hturn, by simp⟩

/-- Settles O12: with no move to come the turn is settled where it stands, and a delivery is `lineAppend`. -/
theorem lineDeliversAndIdleBlockStays : Obligations.LineDeliversAndIdleBlockStays := by
  intro s hwf hcursors
  have hturn := nextTurn_of_ready hwf hcursors
  refine ⟨fun hidle => ?_, fun bytes moves hdeliver => ?_⟩
  · rw [hidle] at hturn
    exact step_settled hturn
  · rw [hdeliver] at hturn
    exact step_settled hturn

end Sys2Proof.Machine

namespace Sys2Proof.Machine

/-! ### A transmit frame under PARSE (30_encoding.md R63 to R67, 43_framer.md R152, R159) -/

/-- The operation id is the low six bits of the command byte, as a number (R65). -/
theorem opId_eq_mod (c : Byte) : opId c = c.toNat % 64 := by
  simp [opId, BitVec.extractLsb'_toNat]

/-- The type tag is the two bits above them, as a number (R64). -/
theorem typeTag_eq_div (c : Byte) : typeTag c = c.toNat / 64 := by
  have hc := c.isLt
  rw [typeTag, BitVec.extractLsb'_toNat, Nat.shiftRight_eq_div_pow]
  omega

/-- The packet whose wire bytes are `TxFrame(q, d)` (R60, R67). -/
def txPacket (q : Byte) (d : List Byte) : Packet :=
  let crc := crc16 (q :: countByte d.length :: d) crcSeed
  ⟨q, countByte d.length, d, lo8 crc, hi8 crc⟩

theorem txPacket_bytes (q : Byte) (d : List Byte) : (txPacket q d).bytes = txFrame q d := rfl

/-- A transmit frame carries its own checksum (R67, R108). -/
theorem txPacket_good (q : Byte) (d : List Byte) : (txPacket q d).good = true := by
  simp [Packet.good, Packet.rx, Packet.body, txPacket]

/-- A transmit frame is four bytes longer than its data (R60, R67). -/
theorem txFrame_length (q : Byte) (d : List Byte) : (txFrame q d).length = d.length + 4 := by
  simp [txFrame, le16Bytes]

/-- The byte framer takes a transmit frame off the front of any bytes (R159): the command and length tests pass, the
candidate is complete, and its checksum is right. -/
theorem frameBytes_txFrame {p : Params} {q : Byte} {d : List Byte} (more : List Byte)
    (hid : opId q ≤ p.maxCmd) (hmax : d.length ≤ p.maxData) (hbyte : d.length ≤ 255) :
    frameBytes p (txFrame q d ++ more) = (.goodMsg (txPacket q d), (txFrame q d).length) := by
  have hcount := countByte_toNat hbyte
  have hgood := txPacket_good q d
  rw [txPacket] at hgood
  have hframe := frameBytes_complete p q (countByte d.length)
    (d ++ le16Bytes (crc16 (q :: countByte d.length :: d) crcSeed) ++ more)
    (Nat.not_lt.2 hid) (by omega) (by simp [hcount, le16Bytes])
  rw [txFrame_length]
  simpa [hcount, le16Bytes, txFrame, txPacket, hgood] using hframe

/-- Settles O46: PARSE is the byte framer on the unconsumed bytes after the fill, and those begin with the frame. -/
theorem txFrameIsFramed : Obligations.TxFrameIsFramed := by
  intro s q d more hinv hid hmax hfront
  have hbyte : d.length ≤ 255 := by have := hinv.params; omega
  have hparse := parseBody_framesAs hinv
  have hseen : (s.rbFill s.params.fillMax).unconsumed = txFrame q d ++ more :=
    (State.rbFill_spec hinv _).2.2.trans hfront
  have hframe := frameBytes_txFrame more ((opId_eq_mod q).trans_le hid) hmax hbyte
  have hresult := hparse.result
  have hrest := hparse.unconsumed
  rw [hseen, State.rbFill_params, hframe] at hresult hrest
  refine ⟨_, rfl, ?_, hrest.trans List.drop_left⟩
  rw [State.respond_response, hresult, ParseResult.fields, txPacket_bytes]
  rfl

/-- Settles O7: the checksum of `0D 01 19` is `0xAD2B`. -/
theorem txFrameWorkedExample : Obligations.TxFrameWorkedExample := by
  have hcrc : crc16 [0x0D#8, 0x01#8, 0x19#8] crcSeed = 0xAD2B#16 := by decide
  exact ⟨by rw [txFrame, show countByte [0x19#8].length = 0x01#8 from rfl, hcrc]; rfl, rfl⟩

/-! ### Op words and their decoding (30_encoding.md R68 to R73) -/

/-- Settles O1: `decode_encode_append` says it of each operation by its opcode. -/
theorem decodeOfEncode : Obligations.DecodeOfEncode :=
  fun _ rest h => decode_encode_append h rest

/-- Both bytes of a 16-bit value are found again in it (R42, R63). -/
@[simp] theorem lo8_le16 (lo hi : Byte) : lo8 (le16 lo hi) = lo := by
  apply BitVec.eq_of_getLsbD_eq
  intro i hlt
  simp [le16, zext16, lo8, hlt, show i < 16 by omega]

@[simp] theorem hi8_le16 (lo hi : Byte) : hi8 (le16 lo hi) = hi := by
  apply BitVec.eq_of_getLsbD_eq
  intro i hlt
  simpa [le16, zext16, hi8, show 8 + i < 16 by omega] using BitVec.lt_of_getLsbD

/-- What decodes in format OP1 is an operand byte and the bytes after it (R69). -/
theorem decodeOp1_eq_op {mk : Byte → Instr} {bytes rest : List Byte} {i : Instr}
    (h : decodeOp1 mk bytes = .op i rest) : ∃ a, i = mk a ∧ bytes = a :: rest := by
  match bytes, h with
  | a :: _, h =>
    cases h
    exact ⟨a, rfl, rfl⟩

/-- What decodes in format OPCRC is a seed, a count, that many data bytes, and the bytes after them (R69). -/
theorem decodeOpCrc_eq_op {bytes rest : List Byte} {i : Instr} (h : decodeOpCrc bytes = .op i rest) :
    ∃ seed data, i = .crc16 seed data ∧ data.length ≤ 255 ∧
      bytes = lo8 seed :: hi8 seed :: countByte data.length :: data ++ rest := by
  match bytes, h with
  | lo :: hi :: len :: tail, h =>
    rw [decodeOpCrc] at h
    split at h
    · cases h
    · next hlen =>
      cases h
      have hbyte := len.isLt
      have hdata : (tail.take len.toNat).length = len.toNat := List.length_take_of_le (Nat.not_lt.1 hlen)
      refine ⟨_, _, rfl, by omega, ?_⟩
      simp [hdata, countByte]

/-- What decodes to an operation is its op word and the bytes after it (R69, R70), by the opcode. -/
theorem decode_eq_op {bytes rest : List Byte} {i : Instr} (h : decode bytes = .op i rest) :
    i.wellFormed = true ∧ bytes = encode i ++ rest := by
  match bytes, h with
  | opcode :: tail, h =>
    dsimp only [decode] at h
    split at h
    case h_2 | h_10 | h_14 => -- RB_FILL, KR_PUSH and PARSE_DISPATCH, of format OP1
      obtain ⟨a, rfl, rfl⟩ := decodeOp1_eq_op h
      exact ⟨rfl, rfl⟩
    case h_12 => -- CRC16
      obtain ⟨seed, data, rfl, hlen, rfl⟩ := decodeOpCrc_eq_op h
      exact ⟨decide_eq_true hlen, rfl⟩
    case h_16 => cases h -- a reserved opcode
    all_goals -- format OP0
      cases h
      exact ⟨rfl, rfl⟩

/-- Settles O2: `decode_eq_op` reads the op word back off each arm of the decoder. -/
theorem decodedBytesAreTheEncoding : Obligations.DecodedBytesAreTheEncoding :=
  fun _ _ _ h => decode_eq_op h

/-- The fifteen opcodes of R70. -/
def listedOpcodes : List Byte :=
  [0x00#8, 0x01#8, 0x02#8, 0x03#8, 0x04#8, 0x05#8, 0x06#8, 0x07#8, 0x10#8, 0x11#8, 0x12#8, 0x20#8, 0x30#8, 0x31#8,
    0x32#8]

/-- An opcode outside R70's list is a one-byte op word, whatever follows (R72). -/
theorem decode_of_not_listed {opcode : Byte} (h : opcode ∉ listedOpcodes) (rest : List Byte) :
    decode (opcode :: rest) = .reserved opcode rest := by
  dsimp only [decode]
  split
  case h_16 => rfl -- none of the fifteen
  all_goals exact absurd (by decide) h

/-- A reserved opcode on the host port is answered at once, and the port moves past it (R72). -/
theorem portTurn_of_decode_reserved {bytes rest : List Byte} {opcode : Byte} (s : State) (moves : List Move)
    (h : decode bytes = .reserved opcode rest) :
    portTurn s bytes moves = .settled (State.respondIllegal { s with agenda := portRest rest moves }) := by
  match bytes, h with
  | b :: bs, h => simp [portTurn, h]

/-- Settles O4: R72's ranges are the complement of R70's list, and an opcode outside it decodes as reserved. -/
theorem reservedOpcodeAnswersIllegal : Obligations.ReservedOpcodeAnswersIllegal := by
  have hranges : ∀ opcode : Byte,
      ((0x08 ≤ opcode.toNat ∧ opcode.toNat ≤ 0x0F) ∨ (0x13 ≤ opcode.toNat ∧ opcode.toNat ≤ 0x1F) ∨
        (0x21 ≤ opcode.toNat ∧ opcode.toNat ≤ 0x2F) ∨ (0x33 ≤ opcode.toNat ∧ opcode.toNat ≤ 0xFF)) ↔
      opcode ∉ listedOpcodes := by decide
  refine ⟨hranges, fun s opcode rest moves hwf hcursors hagenda hreserved => ?_⟩
  have hturn : nextTurn s = .settled (State.respondIllegal { s with agenda := portRest rest moves }) := by
    rw [nextTurn_of_ready hwf hcursors, hagenda]
    exact portTurn_of_decode_reserved s moves (decode_of_not_listed ((hranges opcode).1 hreserved) rest)
  rw [step_settled hturn, portRest_eq_ite]
  rfl

/-- A truncated or whole word of format OP1 or OPCRC is no reserved opcode. -/
theorem decodeOp1_ne_reserved (mk : Byte → Instr) (bytes : List Byte) (opcode : Byte) (rest : List Byte) :
    decodeOp1 mk bytes ≠ .reserved opcode rest := by
  cases bytes <;> simp [decodeOp1]

theorem decodeOpCrc_ne_reserved (bytes : List Byte) (opcode : Byte) (rest : List Byte) :
    decodeOpCrc bytes ≠ .reserved opcode rest := by
  unfold decodeOpCrc
  split
  · split <;> simp
  · simp

/-- What decodes as reserved is an opcode outside R70's list, and the bytes after it (R72). -/
theorem decode_eq_reserved {bytes rest : List Byte} {opcode : Byte} (h : decode bytes = .reserved opcode rest) :
    bytes = opcode :: rest ∧ opcode ∉ listedOpcodes := by
  match bytes, h with
  | first :: tail, h =>
    dsimp only [decode] at h
    split at h
    case h_2 | h_10 | h_14 => exact absurd h (decodeOp1_ne_reserved _ _ _ _)
    case h_12 => exact absurd h (decodeOpCrc_ne_reserved _ _ _)
    case h_16 => -- none of the fifteen
      cases h
      exact ⟨rfl, by simp_all [listedOpcodes]⟩
    all_goals cases h -- format OP0

/-- No op word begins with another (R68): an operation or a reserved opcode in front of missing bytes would still be
in front once they have come. -/
theorem decode_incomplete {i : Instr} {bytes missing : List Byte} (hi : i.wellFormed = true)
    (h : bytes ++ missing = encode i) (hmissing : missing ≠ []) : decode bytes = .truncated := by
  have hwhole : decode (bytes ++ missing) = .op i [] := by
    rw [h]; simpa using decode_encode_append hi []
  match hd : decode bytes with
  | .truncated => rfl
  | .op j rest =>
    obtain ⟨hj, rfl⟩ := decode_eq_op hd
    rw [List.append_assoc, decode_encode_append hj] at hwhole
    injection hwhole with _ hnil
    exact absurd (List.append_eq_nil_iff.1 hnil).2 hmissing
  | .reserved opcode rest =>
    obtain ⟨rfl, hopcode⟩ := decode_eq_reserved hd
    rw [List.cons_append, decode_of_not_listed hopcode] at hwhole
    cases hwhole

/-- Bytes on the host port that end inside an op word stop the model (R73, U11). -/
theorem portTurn_of_decode_truncated {bytes : List Byte} (s : State) (moves : List Move) (hne : bytes ≠ [])
    (h : decode bytes = .truncated) : portTurn s bytes moves = .stop .truncatedOpWord := by
  simp [portTurn, h, hne]

/-- Settles O5: what is missing of the op word is not empty, so the bytes decode as truncated. -/
theorem truncatedOpWordRefused : Obligations.TruncatedOpWordRefused := by
  intro s i bytes moves hwf hcursors hi hne hpart hstrict hagenda
  obtain ⟨missing, hword⟩ := hpart
  have hmissing : missing ≠ [] := by
    rintro rfl
    exact hstrict (by rw [← hword, List.append_nil])
  have hturn : nextTurn s = .stop .truncatedOpWord := by
    rw [nextTurn_of_ready hwf hcursors, hagenda]
    exact portTurn_of_decode_truncated s moves hne (decode_incomplete hi hword hmissing)
  exact step_stop hturn

/-- Settles O3: the arms of the opcode map, and for CRC16 the op word written out as an encoding. -/
theorem sampleOpWordsDecode : Obligations.SampleOpWordsDecode := by
  refine ⟨rfl, rfl, rfl, ?_, rfl⟩
  have hword : [0x20#8, 0x34#8, 0x12#8, 0x02#8, 0xAA#8, 0xBB#8, 0x30#8] =
      encode (.crc16 0x1234#16 [0xAA#8, 0xBB#8]) ++ [0x30#8] := by decide
  rw [hword]
  exact decode_encode_append rfl _

/-- Settles O9: each line's words are by definition the op word R76 shows, and `crcSeed` is its seed. -/
theorem pseudoOperationsExpand : Obligations.PseudoOperationsExpand :=
  ⟨rfl, rfl, fun _ => rfl⟩

/-! ### Response lengths (30_encoding.md R71) -/

/-- The `data_length` of a good packet counts its data, in every state: only step 6 of PARSE makes one, and it
gathers that many bytes (R158). -/
theorem parseBody_data_length {s : State} {p : Packet} (h : (parseBody s).1 = .goodMsg p) :
    p.data.length = p.dataLength.toNat := by
  unfold parseBody parseCandidate at h
  split at h
  · cases h
  unfold parseCommand at h
  dsimp only at h
  split at h
  · cases h
  unfold parseLength at h
  dsimp only at h
  split at h
  · cases h
  split at h
  · cases h
  unfold parseCheck at h
  dsimp only at h
  split at h
  · cases h
    exact State.rbPeekBytes_length _ _
  · cases h

/-- The packet fields of a response, as R71 counts them: the two header bytes, the data, and the two CRC bytes. -/
theorem Packet.bytes_eq_header_append {p : Packet} (h : p.data.length = p.dataLength.toNat) :
    ∃ rest, p.bytes = p.command :: p.dataLength :: rest ∧ rest.length = p.dataLength.toNat + 2 :=
  ⟨_, rfl, by simp [h]⟩

/-- The response of PARSE (R71). -/
theorem parse_response_lengths (s : State) :
    ∃ t, exec .parse s = .next t ∧
      ((t.response = [0x00#8, 0x00#8] ∨ t.response = [0x00#8, 0x01#8]) ∨
        ∃ c n rest, t.response = 0x00#8 :: 0x02#8 :: c :: n :: rest ∧
          t.response.length = 2 + 2 + n.toNat + 2) := by
  refine ⟨_, rfl, ?_⟩
  rw [State.respond_response]
  cases hresult : (parseBody s).1 with
  | giveUp => exact .inl (.inl rfl)
  | tryAgain => exact .inl (.inr rfl)
  | goodMsg p =>
    obtain ⟨rest, hbytes, hlen⟩ := Packet.bytes_eq_header_append (parseBody_data_length hresult)
    refine .inr ⟨p.command, p.dataLength, rest, ?_, ?_⟩ <;> rw [ParseResult.fields, hbytes]
    · rfl
    · simp only [List.length_cons, hlen]; omega

/-- The response of PARSE_DISPATCH: that of PARSE with the class byte after the result (R71). -/
theorem parseDispatch_response_lengths (q : Byte) (s : State) :
    ∃ t, exec (.parseDispatch q) s = .next t ∧
      ((t.response = [0x00#8, 0x00#8, 0x00#8] ∨ t.response = [0x00#8, 0x01#8, 0x00#8]) ∨
        ∃ cls c n rest, t.response = 0x00#8 :: 0x02#8 :: cls :: c :: n :: rest ∧
          t.response.length = 3 + 2 + n.toNat + 2) := by
  refine ⟨_, exec_parseDispatch q s, ?_⟩
  rw [afterDispatch_response]
  cases hresult : (parseBody s).1 with
  | giveUp => exact .inl (.inl rfl)
  | tryAgain => exact .inl (.inr rfl)
  | goodMsg p =>
    obtain ⟨rest, hbytes, hlen⟩ := Packet.bytes_eq_header_append (parseBody_data_length hresult)
    refine .inr ⟨(classify q (.goodMsg p) (parseBody s).2).code, p.command, p.dataLength, rest, ?_, ?_⟩
      <;> rw [ParseResult.fields, hbytes]
    · rfl
    · simp only [List.length_cons, hlen]; omega

/-- Settles O19: the operations but the two parses respond a list of fixed length, whatever the state. -/
theorem responseLengths : Obligations.ResponseLengths := by
  intro s
  refine ⟨?_, fun a => ?_, fun seed bytes => ?_, parse_response_lengths s,
    fun q => parseDispatch_response_lengths q s⟩
  all_goals
    simp only [List.forall_mem_cons, List.not_mem_nil, false_imp_iff, implies_true, and_true]
  · exact ⟨⟨_, rfl, rfl⟩, ⟨_, rfl, rfl⟩, ⟨_, rfl, rfl⟩, ⟨_, rfl, rfl⟩⟩
  · exact ⟨⟨_, rfl, rfl⟩, ⟨_, rfl, rfl⟩, ⟨_, rfl, rfl⟩, ⟨_, rfl, rfl⟩, ⟨_, rfl, rfl⟩, ⟨_, rfl, rfl⟩, ⟨_, rfl, rfl⟩⟩
  · exact ⟨⟨_, rfl, rfl⟩, ⟨_, rfl, rfl⟩⟩

/-! ### Command bytes (30_encoding.md R64, R66, R74) -/

/-- The ranges of R64, from the type tag. -/
theorem commandClass_request {c : Byte} (h : c.toNat ≤ 0x3F) : commandClass c = .request := by
  have htag : typeTag c = 0 := by rw [typeTag_eq_div]; omega
  simp [commandClass, htag]

theorem commandClass_acknowledgement {c : Byte} (hlow : 0x40 ≤ c.toNat) (hhigh : c.toNat ≤ 0x7F) :
    commandClass c = .acknowledgement := by
  have htag : typeTag c = 1 := by rw [typeTag_eq_div]; omega
  simp [commandClass, htag]

theorem commandClass_undefinedTag {c : Byte} (h : 0x81 ≤ c.toNat) : commandClass c = .undefinedTag := by
  have htag : 2 ≤ typeTag c := by rw [typeTag_eq_div]; omega
  have hkey : c ≠ keyEventCmd := by rintro rfl; simp [keyEventCmd] at h
  simp [commandClass, hkey, show typeTag c ≠ 0 by omega, show typeTag c ≠ 1 by omega]

/-- The acknowledgement of a request sets bit 6 and keeps the id (R66). -/
theorem ackOf_toNat_of_request {q : Byte} (h : q.toNat ≤ 0x3F) : (ackOf q).toNat = 0x40 + q.toNat := by
  have hor := Nat.two_pow_add_eq_or_of_lt (i := 6) (show q.toNat < 2 ^ 6 by omega) 1
  rw [ackOf, BitVec.toNat_or]
  exact hor.symm

/-- Settles O8: each range by its type tag, and the acknowledgement of a request as the number 64 above it. -/
theorem commandByteClasses : Obligations.CommandByteClasses := by
  intro c
  refine ⟨fun hrequest => ?_, commandClass_acknowledgement, fun hkey => ?_, commandClass_undefinedTag⟩
  · have hack := ackOf_toNat_of_request hrequest
    exact ⟨commandClass_request hrequest, commandClass_acknowledgement (by omega) (by omega), by omega⟩
  · rw [show c = keyEventCmd from BitVec.eq_of_toNat_eq hkey]
    rfl

/-- A packet whose command byte is undefined is OTHER for every `q`: neither test of R160 passes (R74). -/
theorem classify_undefinedTag (q : Byte) {p : Packet} (s : State) (h : commandClass p.command = .undefinedTag) :
    classify q (.goodMsg p) s = .other := by
  have hkey : p.command ≠ keyEventCmd := by
    intro e
    rw [e] at h
    exact absurd h (by decide)
  have hack : isExpectedAck q p.command = false := by simp [isExpectedAck, h]
  simp [classify, hkey, hack]

/-- The parse result behind a PARSE_DISPATCH response that says GOOD_MSG (R151, R160). -/
theorem parseBody_of_dispatch_goodMsg {q cls c : Byte} {rest : List Byte} {s : State}
    (h : (afterDispatch q s).response = 0x00#8 :: 0x02#8 :: cls :: c :: rest) :
    ∃ p, (parseBody s).1 = .goodMsg p ∧ p.command = c ∧ (classify q (.goodMsg p) (parseBody s).2).code = cls := by
  rw [afterDispatch_response] at h
  cases hresult : (parseBody s).1 with
  | giveUp => rw [hresult] at h; simp [ParseResult.fields] at h
  | tryAgain => rw [hresult] at h; simp [ParseResult.fields] at h
  | goodMsg p =>
    rw [hresult] at h
    simp only [ParseResult.fields, Packet.bytes, List.cons_append, List.cons.injEq] at h
    obtain ⟨-, -, hcls, hc, -⟩ := h
    exact ⟨p, rfl, hc, hcls⟩

/-- Settles O55: the packet is OTHER by its command byte alone, and the OTHER packets are those counted. -/
theorem undefinedTagsAreOther : Obligations.UndefinedTagsAreOther := by
  intro q s t cls c rest hexec hresponse hc
  rw [exec_parseDispatch] at hexec
  cases hexec
  obtain ⟨p, -, hcommand, hclass⟩ := parseBody_of_dispatch_goodMsg hresponse
  have hundefined := commandClass_undefinedTag hc
  rw [← hcommand] at hundefined
  rw [classify_undefinedTag q _ hundefined] at hclass
  have hcounted := afterDispatch_unmatched q s
  rw [hresponse] at hcounted
  exact ⟨hclass.symm, by simpa [← hclass, PacketClass.code] using hcounted⟩

end Sys2Proof.Machine

namespace Sys2Proof.Machine

/-! ### The CRC16 engine (40_crc.md R100 to R106) -/

/-- Settles O24: the operation is `respond` with the checksum's bytes, and `respond` writes the response alone. -/
theorem crc16Responds : Obligations.Crc16Responds := fun _ _ _ => rfl

/-- Settles O22, by evaluating the nine table updates. -/
theorem crcCheckValue : Obligations.CrcCheckValue := by
  unfold Obligations.CrcCheckValue
  decide

/-- The printed table is R102's construction, entry after entry (R103). -/
theorem crcTableR103_eq_map : crcTableR103 = (List.range 256).map crcTable := by decide +kernel

/-- Settles O20: what `crcTableR103_eq_map` says of the list as a whole, read at one index. -/
theorem crcTableAsPrinted : Obligations.CrcTableAsPrinted := by
  unfold Obligations.CrcTableAsPrinted
  rw [crcTableR103_eq_map]
  exact ⟨by simp, fun i hi => by simp [hi]⟩

/-- A clear low bit only shifts the accumulator (R102). -/
theorem crcBit_of_clear {c : Word16} (h : c.getLsbD 0 = false) : crcBit c = c >>> 1 := by
  rw [crcBit, h]; rfl

/-- A set low bit subtracts the polynomial as well (R102). -/
theorem crcBit_of_set {c : Word16} (h : c.getLsbD 0 = true) : crcBit c = (c >>> 1) ^^^ 0x8408#16 := by
  rw [crcBit, h]; rfl

/-- Division by the polynomial is linear over exclusive or: the sum subtracts it when just one summand does. -/
theorem crcBit_xor (a b : Word16) : crcBit (a ^^^ b) = crcBit a ^^^ crcBit b := by
  have hbit : (a ^^^ b).getLsbD 0 = (a.getLsbD 0 ^^ b.getLsbD 0) := BitVec.getLsbD_xor
  have hshift : (a ^^^ b) >>> 1 = a >>> 1 ^^^ b >>> 1 := BitVec.ushiftRight_xor_distrib a b 1
  cases ha : a.getLsbD 0 <;> cases hb : b.getLsbD 0 <;> rw [ha, hb] at hbit
  · rw [crcBit_of_clear ha, crcBit_of_clear hb, crcBit_of_clear hbit, hshift]
  · rw [crcBit_of_clear ha, crcBit_of_set hb, crcBit_of_set hbit, hshift, BitVec.xor_assoc]
  · rw [crcBit_of_set ha, crcBit_of_clear hb, crcBit_of_set hbit, hshift]; ac_rfl
  · rw [crcBit_of_set ha, crcBit_of_set hb, crcBit_of_clear hbit, hshift]
    calc a >>> 1 ^^^ b >>> 1 = (a >>> 1 ^^^ b >>> 1) ^^^ (0x8408#16 ^^^ 0x8408#16) := by simp
      _ = (a >>> 1 ^^^ 0x8408#16) ^^^ (b >>> 1 ^^^ 0x8408#16) := by ac_rfl

theorem crcBits_xor (n : Nat) (a b : Word16) : crcBits n (a ^^^ b) = crcBits n a ^^^ crcBits n b := by
  induction n generalizing a b with
  | zero => rfl
  | succ n ih => rw [crcBits, crcBit_xor, ih]; rfl

theorem crcBits_add (m n : Nat) (c : Word16) : crcBits (m + n) c = crcBits n (crcBits m c) := by
  induction m generalizing c with
  | zero => rw [Nat.zero_add]; rfl
  | succ m ih => rw [Nat.succ_add]; exact ih (crcBit c)

/-- While the low bits are clear, no polynomial is subtracted and the division only shifts. -/
theorem crcBits_eq_ushiftRight {n : Nat} {c : Word16} (h : ∀ i < n, c.getLsbD i = false) :
    crcBits n c = c >>> n := by
  induction n generalizing c with
  | zero => simp [crcBits]
  | succ n ih =>
    have hlow : ∀ i < n, (c >>> 1).getLsbD i = false := fun i hi => by
      rw [BitVec.getLsbD_ushiftRight]; exact h _ (by omega)
    rw [crcBits, crcBit_of_clear (h 0 n.succ_pos), ih hlow, ← BitVec.shiftRight_add, Nat.add_comm]

/-- The two bytes of a 16-bit value do not overlap, so its `or` is an exclusive or (R42). -/
theorem le16_eq_xor (lo hi : Byte) : le16 lo hi = zext16 lo ^^^ zext16 hi <<< 8 := by
  apply BitVec.eq_of_getLsbD_eq
  intro i hlt
  by_cases hlow : i < 8
  · simp [le16, zext16, hlow, hlt]
  · simp [le16, zext16, hlow, hlt, BitVec.getLsbD_of_ge lo i (Nat.not_lt.1 hlow)]

/-- The high byte of a 16-bit value is what a shift by a byte leaves (R42). -/
theorem le16_ushiftRight_eight (lo hi : Byte) : le16 lo hi >>> 8 = zext16 hi := by
  apply BitVec.eq_of_getLsbD_eq
  intro i hlt
  by_cases hlow : i < 8
  · simp [le16, zext16, hlow, hlt, show 8 + i < 16 by omega]
  · simp [le16, zext16, hlt, BitVec.getLsbD_of_ge hi i (Nat.not_lt.1 hlow)]

/-- The low byte of a 16-bit value is what the mask of R101 leaves (R42). -/
theorem le16_and_mask (lo hi : Byte) : le16 lo hi &&& 0xFF#16 = zext16 lo := by
  apply BitVec.eq_of_getLsbD_eq
  intro i hlt
  have hmask : ∀ j < 16, (0xFF#16).getLsbD j = decide (j < 8) := by decide
  rw [BitVec.getLsbD_and, hmask i hlt]
  by_cases hlow : i < 8
  · simp [le16, zext16, hlow, hlt]
  · simp [zext16, hlow, BitVec.getLsbD_of_ge lo i (Nat.not_lt.1 hlow)]

/-- A byte is added to the low byte of the accumulator. -/
theorem le16_xor_zext16 (lo hi b : Byte) : le16 lo hi ^^^ zext16 b = le16 (lo ^^^ b) hi := by
  have hlow : zext16 (lo ^^^ b) = zext16 lo ^^^ zext16 b := BitVec.setWidth_xor
  rw [le16_eq_xor, le16_eq_xor, hlow]
  ac_rfl

/-- Eight bits of the division act on the low byte alone and shift the high byte down. -/
theorem crcBits_eight_le16 (lo hi : Byte) : crcBits 8 (le16 lo hi) = zext16 hi ^^^ crcBits 8 (zext16 lo) := by
  have hclear : ∀ i < 8, (zext16 hi <<< 8).getLsbD i = false := fun i hlt => by simp [hlt]
  have hback : zext16 hi <<< 8 >>> 8 = zext16 hi := by simpa [le16, zext16] using le16_ushiftRight_eight 0#8 hi
  rw [le16_eq_xor, crcBits_xor, crcBits_eq_ushiftRight hclear, hback, BitVec.xor_comm]

/-- One table update is eight bits of the division (R101, R104): the table divides the low byte of the accumulator,
and the high byte only shifts down. -/
theorem crcUpdateSerial_eq_crcUpdate (acc : Word16) (b : Byte) : crcUpdateSerial acc b = crcUpdate acc b := by
  have hacc := le16_lo8_hi8 acc
  calc crcUpdateSerial acc b
      = crcBits 8 (le16 (lo8 acc ^^^ b) (hi8 acc)) := by rw [crcUpdateSerial, ← le16_xor_zext16, hacc]
    _ = zext16 (hi8 acc) ^^^ crcBits 8 (zext16 (lo8 acc ^^^ b)) := crcBits_eight_le16 _ _
    _ = (acc >>> 8) ^^^ crcBits 8 ((acc ^^^ zext16 b) &&& 0xFF#16) := by
      rw [← le16_and_mask (lo8 acc ^^^ b) (hi8 acc), ← le16_xor_zext16, ← le16_ushiftRight_eight (lo8 acc), hacc]
    _ = crcUpdate acc b := by rw [crcUpdate, crcTable, BitVec.ofNat_toNat, BitVec.setWidth_eq]

/-- Settles O21: the two forms fold the same update. -/
theorem crcBitSerialEqualsTable : Obligations.CrcBitSerialEqualsTable := by
  intro bytes seed
  rw [crc16Serial, crc16, funext₂ crcUpdateSerial_eq_crcUpdate]

/-- Updating by two bytes divides all sixteen bits of the accumulator plus the value they carry. -/
theorem crcUpdate_crcUpdate (acc : Word16) (lo hi : Byte) :
    crcUpdate (crcUpdate acc lo) hi = crcBits 16 (acc ^^^ le16 lo hi) := by
  have hhigh : crcBits 8 (zext16 hi <<< 8) = zext16 hi := by
    simpa [le16, zext16, crcBits, crcBit] using crcBits_eight_le16 0#8 hi
  rw [← crcUpdateSerial_eq_crcUpdate, ← crcUpdateSerial_eq_crcUpdate, crcUpdateSerial, crcUpdateSerial,
    crcBits_add 8 8, le16_eq_xor, ← BitVec.xor_assoc, crcBits_xor 8 _ (zext16 hi <<< 8), hhigh]

/-- The residue of R106, whatever the seed: the accumulator plus its own complement is `0xFFFF`, and dividing that is
one fixed computation. -/
theorem crc16_append_own_crc {bytes : List Byte} {seed : Word16} {lo hi : Byte}
    (h : crc16 bytes seed = le16 lo hi) : crc16 (bytes ++ [lo, hi]) seed = 0x0F47#16 := by
  have hresidue : ~~~ crcBits 16 0xFFFF#16 = 0x0F47#16 := by simp [crcBits, crcBit]
  have hones (acc : Word16) : acc ^^^ ~~~ acc = 0xFFFF#16 := by rw [← BitVec.allOnes_xor]; simp
  rw [crc16] at h
  rw [crc16, List.foldl_append, List.foldl_cons, List.foldl_cons, List.foldl_nil, crcUpdate_crcUpdate, ← h, hones,
    hresidue]

/-- Settles O23: the corners are single evaluations, and a CRC is its own two bytes, low byte first. -/
theorem crcCornersAndResidue : Obligations.CrcCornersAndResidue := by
  refine ⟨fun _ => rfl, by decide, fun body c hc => ?_⟩
  exact crc16_append_own_crc (hc.symm.trans (le16_lo8_hi8 c).symm)

/-! ### The messages PARSE accepts (43_framer.md R155, R156, R159) -/

/-- What the byte framer accepts passed its three tests. -/
theorem frameBytes_goodMsg {p : Params} {u : List Byte} {pkt : Packet} (h : (frameBytes p u).1 = .goodMsg pkt) :
    opId pkt.command ≤ p.maxCmd ∧ pkt.dataLength.toNat ≤ p.maxData ∧ pkt.good = true := by
  by_cases hshort : u.length < 4
  · rw [frameBytes_short p u hshort] at h; cases h
  match u, hshort with
  | c :: n :: rest, hshort =>
    have hlen : 2 ≤ rest.length := by simp only [List.length_cons] at hshort; omega
    by_cases hc : p.maxCmd < opId c
    · rw [frameBytes_command p c n rest hlen hc] at h; cases h
    by_cases hn : p.maxData < n.toNat
    · rw [frameBytes_length p c n rest hlen hc hn] at h; cases h
    by_cases hr : rest.length < n.toNat + 2
    · rw [frameBytes_incomplete p c n rest hlen hc hn hr] at h; cases h
    rw [frameBytes_complete p c n rest hc hn (Nat.not_lt.1 hr)] at h
    dsimp only at h
    split at h
    · next hgood =>
      cases h
      exact ⟨Nat.not_lt.1 hc, Nat.not_lt.1 hn, hgood⟩
    · cases h

/-- What PARSE accepts, in terms of the packet (R155, R156, R158, R159). -/
theorem parseBody_goodMsg {s : State} {p : Packet} (hs : s.Inv) (h : (parseBody s).1 = .goodMsg p) :
    opId p.command ≤ s.params.maxCmd ∧ p.dataLength.toNat ≤ s.params.maxData ∧
      p.data.length = p.dataLength.toNat ∧ p.good = true := by
  obtain ⟨hid, hmax, hgood⟩ := frameBytes_goodMsg ((parseBody_framesAs hs).result.symm.trans h)
  rw [State.rbFill_params] at hid hmax
  exact ⟨hid, hmax, parseBody_data_length h, hgood⟩

/-- A good packet's wire bytes are its body followed by the body's own CRC (R60, R62, R108). -/
theorem Packet.crc16_bytes {p : Packet} (h : p.good = true) : crc16 p.bytes crcSeed = 0x0F47#16 :=
  crc16_append_own_crc (bytes := p.body) (beq_iff_eq.1 h)

/-- The parse result behind a response that says GOOD_MSG (R150, R151). -/
theorem ParseResult.eq_goodMsg_of_code_fields {r : ParseResult} {bytes : List Byte}
    (h : r.code :: r.fields = 0x02#8 :: bytes) : ∃ p, r = .goodMsg p ∧ p.bytes = bytes := by
  cases r with
  | giveUp => cases h
  | tryAgain => cases h
  | goodMsg p => exact ⟨p, rfl, (List.cons.inj h).2⟩

/-- Settles O45: the response's bytes are the accepted packet's. -/
theorem goodMessagesAreSound : Obligations.GoodMessagesAreSound := by
  intro s t c n rest hs hexec hresponse
  cases hexec
  rw [State.respond_response] at hresponse
  obtain ⟨p, hresult, hbytes⟩ := ParseResult.eq_goodMsg_of_code_fields (List.cons.inj hresponse).2
  obtain ⟨hid, hmax, hlen, hgood⟩ := parseBody_goodMsg hs hresult
  have hresidue := Packet.crc16_bytes hgood
  rw [hbytes] at hresidue
  obtain ⟨tail, hheader, htail⟩ := Packet.bytes_eq_header_append hlen
  cases hheader.symm.trans hbytes
  rw [opId_eq_mod] at hid
  exact ⟨hid, hmax, htail, hresidue⟩

end Sys2Proof.Machine

namespace Sys2Proof.Machine

/-! ### Runs of operations, one operation at a time (20_memory.md R47) -/

section
variable {s t : State} {i : Instr}

theorem runOps_cons (h : exec i s = .next t) (is : List Instr) : runOps (i :: is) s = runOps is t := by
  rw [runOps, h]

theorem responses_cons (h : exec i s = .next t) (is : List Instr) :
    responses (i :: is) s = t.response :: responses is t := by
  rw [responses, h]

theorem gotBytes_cons (h : exec i s = .next t) (is : List Instr) :
    gotBytes (i :: is) s =
      (if i = .rbGet ∧ s.rbTail ≠ s.rbHead then [t.response.getD 1 sentinel] else []) ++ gotBytes is t := by
  rw [gotBytes, h]

end

/-! ### Bytes leave the Receive Buffer in the order of the line (41_rxbuf.md R121) -/

section
variable {s t : State} {i : Instr}

/-- The unconsumed bytes are read off the array, the tail and the head. -/
theorem State.unconsumed_congr (hparams : t.params = s.params) (hrb : t.rb = s.rb) (hhead : t.rbHead = s.rbHead)
    (htail : t.rbTail = s.rbTail) : t.unconsumed = s.unconsumed := by
  simp only [State.unconsumed, State.rbFrom, State.rbAvail, State.rbSlot, hparams, hrb, hhead, htail]

@[simp] theorem State.respond_unconsumed (s : State) (fields : List Byte) :
    (s.respond fields).unconsumed = s.unconsumed := rfl

@[simp] theorem State.krPush_unconsumed (s : State) (v : Byte) : (s.krPush v).unconsumed = s.unconsumed :=
  State.unconsumed_congr (s.krPush_params v) (s.krPush_rb v) (s.krPush_rbHead v) (s.krPush_rbTail v)

@[simp] theorem State.krPop_unconsumed (s : State) : s.krPop.unconsumed = s.unconsumed :=
  State.unconsumed_congr s.krPop_params s.krPop_rb s.krPop_rbHead s.krPop_rbTail

/-- A fill moves bytes from the front of the line to the end of the buffer (R112). -/
theorem State.rbFill_conserves (h : s.Inv) (m : Nat) :
    (s.rbFill m).unconsumed ++ (s.rbFill m).linePending = s.unconsumed ++ s.linePending := by
  obtain ⟨-, -, hunconsumed⟩ := State.rbFill_spec h m
  rw [hunconsumed, State.rbFill_linePending, State.fillTaken, List.append_assoc, List.take_append_drop]

/-- A get takes the byte it returns off the front of the buffer, if there is one (R115). -/
theorem State.rbGet_conserves (h : s.Inv) :
    (if s.rbTail ≠ s.rbHead then [s.rbGetValue] else []) ++ s.rbGet.unconsumed = s.unconsumed := by
  rw [State.rbGetValue_eq h, State.rbGet_unconsumed h]
  split
  · next hne => rw [State.unconsumed_cons h hne]; rfl
  · next hempty =>
    have hlength : s.unconsumed.length = 0 := by simpa using h.rbAvail_eq_zero.2 (not_not.1 hempty)
    rw [List.length_eq_zero_iff.1 hlength]; rfl

/-- The byte an RB_GET got, the unconsumed bytes and the line: no operation but those that discard reorders or loses
any of them. -/
theorem exec_conserves_bytes (hs : s.Inv) (h : exec i s = .next t) (hreset : i ≠ .rbReset) (haccept : i ≠ .rbAccept)
    (hparse : i ≠ .parse) (hdispatch : ∀ q, i ≠ .parseDispatch q) :
    (if i = .rbGet ∧ s.rbTail ≠ s.rbHead then [t.response.getD 1 sentinel] else []) ++ t.unconsumed ++
      t.linePending = s.unconsumed ++ s.linePending := by
  cases i with
  | rbReset => exact absurd rfl hreset
  | rbAccept => exact absurd rfl haccept
  | parse => exact absurd rfl hparse
  | parseDispatch q => exact absurd rfl (hdispatch q)
  | rbFill maxBytes => cases h; simpa using State.rbFill_conserves hs maxBytes.toNat
  | rbGet => cases h; simpa using congrArg (· ++ s.linePending) (State.rbGet_conserves hs)
  | rbPeek => cases h; simp [State.rbPeekNext_unconsumed]
  | krPush v => cases h; simp
  | krPop => cases h; simp
  | rbAvail | rbPeekAvail | rbSyncPeek | krReset | crc16 | unmatchedRead => cases h; rfl

/-- Gets until the buffer is empty return its bytes in order, and RB_AVAIL is 0 then (R114, R115, R121). -/
theorem responses_rbGet_drain (h : s.Inv) {bytes : List Byte} (hbytes : s.unconsumed = bytes) :
    responses (List.replicate bytes.length .rbGet ++ [.rbAvail]) s =
      bytes.map (fun b => [0x00#8, b]) ++ [[0x00#8, 0x00#8]] := by
  induction bytes generalizing s with
  | nil =>
    have hempty : s.rbAvail = 0 := by rw [← State.unconsumed_length, hbytes]; rfl
    have havail : exec .rbAvail s = .next (s.respond [countByte s.rbAvail]) := rfl
    simp [responses_cons havail, hempty, responses, statusOk, countByte]
  | cons b bs ih =>
    have hget : exec .rbGet s = .next (s.rbGet.respond [s.rbGetValue]) := rfl
    have hvalue : s.rbGetValue = b := by rw [State.rbGetValue_eq h, hbytes]; rfl
    have hrest : (s.rbGet.respond [s.rbGetValue]).unconsumed = bs := by
      rw [State.respond_unconsumed, State.rbGet_unconsumed h, hbytes]; rfl
    rw [List.length_cons, List.replicate_succ, List.cons_append, responses_cons hget, ih (exec_inv h hget) hrest,
      State.respond_response, hvalue]
    rfl

end

/-- Settles O34, by induction on the operations: each conserves the bytes in their order. -/
theorem fillsAndGetsKeepByteOrder : Obligations.FillsAndGetsKeepByteOrder := by
  intro ops
  induction ops with
  | nil => exact fun s hs _ => ⟨s, rfl, rfl, responses_rbGet_drain hs rfl⟩
  | cons i is ih =>
    intro s hs hkeep
    obtain ⟨⟨hreset, haccept, hparse, hdispatch⟩, hkeepRest⟩ := List.forall_mem_cons.1 hkeep
    obtain ⟨u, fields, hu, -, -⟩ := exec_eq_next_respond i s
    obtain ⟨t, hrun, horder, hdrain⟩ := ih _ (exec_inv hs hu) hkeepRest
    refine ⟨t, (runOps_cons hu is).trans hrun, ?_, hdrain⟩
    rw [gotBytes_cons hu, List.append_assoc, List.append_assoc, ← List.append_assoc (gotBytes is _), horder,
      ← List.append_assoc]
    exact exec_conserves_bytes hs hu hreset haccept hparse hdispatch

/-! ### Which slots a fill writes (41_rxbuf.md R112) -/

section
variable {s : State}

theorem State.rbStoreAll_rbHead (hhead : s.rbHead < s.params.nRb) (vs : List Byte) :
    (s.rbStoreAll vs).rbHead = (s.rbHead + vs.length) % s.params.nRb := by
  induction vs generalizing s with
  | nil => exact (Nat.mod_eq_of_lt hhead).symm
  | cons v vs ih =>
    have hnext : (s.rbStore v).rbHead < (s.rbStore v).params.nRb := inc_lt (Nat.zero_lt_of_lt hhead)
    rw [State.rbStoreAll, ih hnext]
    exact inc_add_mod _ _ _

/-- The loop of R112 leaves the slots it does not reach as they were. -/
theorem State.rbStoreAll_read_other {vs : List Byte} {a : Nat}
    (ha : ∀ i < vs.length, a ≠ (s.rbHead + i) % s.params.nRb) (hhead : s.rbHead < s.params.nRb) :
    Memory.read (s.rbStoreAll vs).rb a = Memory.read s.rb a := by
  induction vs generalizing s with
  | nil => rfl
  | cons v vs ih =>
    have hnext : (s.rbStore v).rbHead < (s.rbStore v).params.nRb := inc_lt (Nat.zero_lt_of_lt hhead)
    have hne : a ≠ s.rbHead := by simpa [Nat.mod_eq_of_lt hhead] using ha 0 (by simp)
    have hrest : ∀ i < vs.length, a ≠ ((s.rbStore v).rbHead + i) % (s.rbStore v).params.nRb := by
      intro i hi
      rw [State.rbStore_rbHead, State.rbStore_params, inc_add_mod]
      exact ha (i + 1) (Nat.succ_lt_succ hi)
    rw [State.rbStoreAll, ih hrest hnext, State.rbStore_rb, Memory.read_write_other hne]

/-- The loop of R112 writes its bytes in order, one slot each, as long as they fit in the array. -/
theorem State.rbStoreAll_read {vs : List Byte} {i : Nat} (hi : i < vs.length) (hfit : vs.length ≤ s.params.nRb)
    (hhead : s.rbHead < s.params.nRb) :
    Memory.read (s.rbStoreAll vs).rb ((s.rbHead + i) % s.params.nRb) = vs[i]? := by
  induction vs generalizing s i with
  | nil => cases hi
  | cons v vs ih =>
    have hnext : (s.rbStore v).rbHead < (s.rbStore v).params.nRb := inc_lt (Nat.zero_lt_of_lt hhead)
    have hlength : vs.length < s.params.nRb := hfit
    cases i with
    | zero =>
      have hlater : ∀ k < vs.length, s.rbHead ≠ ((s.rbStore v).rbHead + k) % (s.rbStore v).params.nRb := by
        intro k hk heq
        rw [State.rbStore_rbHead, State.rbStore_params, inc_add_mod] at heq
        have hdist := dist_add hhead (show k + 1 < s.params.nRb by omega)
        rw [← heq, dist_self] at hdist
        omega
      rw [Nat.add_zero, Nat.mod_eq_of_lt hhead, State.rbStoreAll, State.rbStoreAll_read_other hlater hnext,
        State.rbStore_rb, Memory.read_write_same]
      rfl
    | succ k =>
      rw [State.rbStoreAll, ← inc_add_mod]
      exact ih (Nat.lt_of_succ_lt_succ hi) hlength.le hnext

/-- The state a fill's loop starts from: its draw is used up, and its bytes are off the line (R112). -/
def State.afterTake (s : State) (m : Nat) : State :=
  { s.afterDraw with linePending := s.linePending.drop (s.fillCount m) }

theorem State.rbFill_eq_rbStoreAll (s : State) (m : Nat) :
    s.rbFill m = (s.afterTake m).rbStoreAll (s.fillTaken m) := rfl

@[simp] theorem State.afterTake_params (s : State) (m : Nat) : (s.afterTake m).params = s.params := s.afterDraw_params

@[simp] theorem State.afterTake_rb (s : State) (m : Nat) : (s.afterTake m).rb = s.rb := s.afterDraw_rb

@[simp] theorem State.afterTake_rbHead (s : State) (m : Nat) : (s.afterTake m).rbHead = s.rbHead := s.afterDraw_rbHead

/-- What a fill does to the array and its head (R112). -/
theorem State.rbFill_writes (h : s.Inv) (m : Nat) :
    (s.rbFill m).rbHead = (s.rbHead + s.fillCount m) % s.params.nRb ∧
      (∀ i < s.fillCount m,
        Memory.read (s.rbFill m).rb ((s.rbHead + i) % s.params.nRb) = s.linePending[i]?) ∧
      ∀ a, (∀ i < s.fillCount m, a ≠ (s.rbHead + i) % s.params.nRb) →
        Memory.read (s.rbFill m).rb a = Memory.read s.rb a := by
  obtain ⟨hhead, -⟩ := h.cursors
  obtain ⟨-, hfree, -⟩ := s.fillCount_le m
  have hfit : s.fillCount m ≤ s.params.nRb := by unfold State.rbFree at hfree; omega
  have hstart : (s.afterTake m).rbHead < (s.afterTake m).params.nRb := by simpa using hhead
  rw [State.rbFill_eq_rbStoreAll]
  refine ⟨?_, fun i hi => ?_, fun a ha => ?_⟩
  · simpa using State.rbStoreAll_rbHead hstart (s.fillTaken m)
  · have hread : Memory.read ((s.afterTake m).rbStoreAll (s.fillTaken m)).rb ((s.rbHead + i) % s.params.nRb) =
        (s.fillTaken m)[i]? := by
      simpa using State.rbStoreAll_read (i := i) (by simpa using hi) (by simpa using hfit) hstart
    rw [hread, State.fillTaken, List.getElem?_take_of_lt hi]
  · rw [State.rbStoreAll_read_other (by simpa using ha) hstart, State.afterTake_rb]

end

/-- Settles O26: the fill's own count is the `k`. -/
theorem rbFillTakesFromTheLine : Obligations.RbFillTakesFromTheLine := by
  intro s maxBytes hs
  obtain ⟨hmax, hfree, hline⟩ := s.fillCount_le maxBytes.toNat
  obtain ⟨hhead, hwritten, hother⟩ := State.rbFill_writes hs maxBytes.toNat
  have hcount : (countByte (s.fillCount maxBytes.toNat)).toNat = s.fillCount maxBytes.toNat :=
    countByte_toNat (hmax.trans (Nat.le_of_lt_succ maxBytes.isLt))
  exact ⟨s.fillCount maxBytes.toNat, _, hmax, hfree, hline, rfl, ⟨_, rfl, hcount⟩, s.rbFill_linePending _, hhead,
    hwritten, hother, s.rbFill_rbTail _, s.rbFill_rbPeek _, s.rbFill_kr _, s.rbFill_krHead _, s.rbFill_krTail _,
    s.rbFill_unmatched _, s.rbFill_params _, s.rbFill_agenda _⟩

/-! ### The two units do not interfere (41_rxbuf.md R110, 43_framer.md R150, 42_keyring.md) -/

/-- The state with the Key Ring and `UNMATCHED` of another. -/
def State.withKeyRing (s : State) (kr : Memory) (head tail : Nat) (u : Word16) : State :=
  { s with kr := kr, krHead := head, krTail := tail, unmatched := u }

section
variable (s : State) (kr : Memory) (head tail : Nat) (u : Word16)

@[simp] theorem State.withKeyRing_params : (s.withKeyRing kr head tail u).params = s.params := rfl

@[simp] theorem State.rbAvail_withKeyRing : (s.withKeyRing kr head tail u).rbAvail = s.rbAvail := rfl

@[simp] theorem State.rbPeekAvail_withKeyRing : (s.withKeyRing kr head tail u).rbPeekAvail = s.rbPeekAvail := rfl

@[simp] theorem State.fillCount_withKeyRing (m : Nat) :
    (s.withKeyRing kr head tail u).fillCount m = s.fillCount m := rfl

@[simp] theorem State.respond_withKeyRing (fields : List Byte) :
    (s.withKeyRing kr head tail u).respond fields = (s.respond fields).withKeyRing kr head tail u := rfl

@[simp] theorem State.rbGetValue_withKeyRing : (s.withKeyRing kr head tail u).rbGetValue = s.rbGetValue := rfl

@[simp] theorem State.rbPeekValue_withKeyRing : (s.withKeyRing kr head tail u).rbPeekValue = s.rbPeekValue := rfl

@[simp] theorem State.rbSyncPeek_withKeyRing :
    (s.withKeyRing kr head tail u).rbSyncPeek = s.rbSyncPeek.withKeyRing kr head tail u := rfl

@[simp] theorem State.rbAccept_withKeyRing :
    (s.withKeyRing kr head tail u).rbAccept = s.rbAccept.withKeyRing kr head tail u := rfl

@[simp] theorem State.rbGet_withKeyRing :
    (s.withKeyRing kr head tail u).rbGet = s.rbGet.withKeyRing kr head tail u := by
  rw [State.rbGet, State.rbGet, apply_ite (State.withKeyRing · kr head tail u)]
  rfl

@[simp] theorem State.rbPeekNext_withKeyRing :
    (s.withKeyRing kr head tail u).rbPeekNext = s.rbPeekNext.withKeyRing kr head tail u := by
  rw [State.rbPeekNext, State.rbPeekNext, apply_ite (State.withKeyRing · kr head tail u)]
  rfl

@[simp] theorem State.rbPeekBytes_withKeyRing (n : Nat) :
    (s.withKeyRing kr head tail u).rbPeekBytes n = s.rbPeekBytes n := by
  induction n generalizing s with
  | zero => rfl
  | succ n ih => simp [State.rbPeekBytes, ih]

@[simp] theorem State.rbPeekMany_withKeyRing (n : Nat) :
    (s.withKeyRing kr head tail u).rbPeekMany n = (s.rbPeekMany n).withKeyRing kr head tail u := by
  induction n generalizing s with
  | zero => rfl
  | succ n ih => simp [State.rbPeekMany, ih]

theorem State.rbStoreAll_withKeyRing (vs : List Byte) :
    (s.withKeyRing kr head tail u).rbStoreAll vs = (s.rbStoreAll vs).withKeyRing kr head tail u := by
  induction vs generalizing s with
  | nil => rfl
  | cons v vs ih => exact ih (s.rbStore v)

theorem State.afterDraw_withKeyRing :
    (s.withKeyRing kr head tail u).afterDraw = s.afterDraw.withKeyRing kr head tail u := by
  cases hdraws : s.draws <;> simp [State.afterDraw, State.withKeyRing, hdraws]

theorem State.afterTake_withKeyRing (m : Nat) :
    (s.withKeyRing kr head tail u).afterTake m = (s.afterTake m).withKeyRing kr head tail u := by
  rw [State.afterTake, State.afterDraw_withKeyRing]
  rfl

@[simp] theorem State.rbFill_withKeyRing (m : Nat) :
    (s.withKeyRing kr head tail u).rbFill m = (s.rbFill m).withKeyRing kr head tail u := by
  rw [State.rbFill_eq_rbStoreAll, State.afterTake_withKeyRing]
  exact State.rbStoreAll_withKeyRing (s.afterTake m) kr head tail u (s.fillTaken m)

/-- Steps 2 to 7 of PARSE neither read nor write the Key Ring and `UNMATCHED` (R150). -/
theorem parseCandidate_withKeyRing :
    parseCandidate (s.withKeyRing kr head tail u) =
      ((parseCandidate s).1, (parseCandidate s).2.withKeyRing kr head tail u) := by
  simp only [parseCandidate, parseCommand, parseLength, parseCheck, State.withKeyRing_params,
    State.rbAvail_withKeyRing, State.rbPeekAvail_withKeyRing, State.rbPeekValue_withKeyRing,
    State.rbSyncPeek_withKeyRing, State.rbPeekNext_withKeyRing, State.rbPeekBytes_withKeyRing,
    State.rbPeekMany_withKeyRing, State.rbGet_withKeyRing, State.rbAccept_withKeyRing]
  split_ifs <;> rfl

theorem parseBody_withKeyRing :
    parseBody (s.withKeyRing kr head tail u) = ((parseBody s).1, (parseBody s).2.withKeyRing kr head tail u) := by
  rw [parseBody, State.rbFill_withKeyRing]
  exact parseCandidate_withKeyRing _ kr head tail u

end

/-- The state with the Receive Buffer, the line and `UNMATCHED` of another. -/
def State.withRxBuf (s : State) (rb : Memory) (head tail peek : Nat) (line : List Byte) (u : Word16) : State :=
  { s with rb := rb, rbHead := head, rbTail := tail, rbPeek := peek, linePending := line, unmatched := u }

section
variable (s : State) (rb : Memory) (head tail peek : Nat) (line : List Byte) (u : Word16)

@[simp] theorem State.krFull_withRxBuf : (s.withRxBuf rb head tail peek line u).krFull = s.krFull := rfl

@[simp] theorem State.krPopValue_withRxBuf : (s.withRxBuf rb head tail peek line u).krPopValue = s.krPopValue := rfl

@[simp] theorem State.respond_withRxBuf (fields : List Byte) :
    (s.withRxBuf rb head tail peek line u).respond fields =
      (s.respond fields).withRxBuf rb head tail peek line u := rfl

@[simp] theorem State.krPush_withRxBuf (v : Byte) :
    (s.withRxBuf rb head tail peek line u).krPush v = (s.krPush v).withRxBuf rb head tail peek line u := by
  rw [State.krPush, State.krPush, apply_ite (State.withRxBuf · rb head tail peek line u)]
  rfl

@[simp] theorem State.krPop_withRxBuf :
    (s.withRxBuf rb head tail peek line u).krPop = s.krPop.withRxBuf rb head tail peek line u := by
  rw [State.krPop, State.krPop, apply_ite (State.withRxBuf · rb head tail peek line u)]
  rfl

end

/-- An operation of the Receive Buffer unit, or PARSE, runs on as if nothing had been replaced. -/
theorem exec_withKeyRing {i : Instr} {s t : State} (kr : Memory) (head tail : Nat) (u : Word16)
    (hi : i ∈ [Instr.rbReset, .rbAvail, .rbGet, .rbPeekAvail, .rbSyncPeek, .rbPeek, .rbAccept, .parse] ∨
      ∃ a, i = .rbFill a)
    (h : exec i s = .next t) : exec i (s.withKeyRing kr head tail u) = .next (t.withKeyRing kr head tail u) := by
  cases i with
  | krReset | krPush | krPop | crc16 | parseDispatch | unmatchedRead => simp at hi
  | rbReset | rbAvail | rbPeekAvail | rbSyncPeek | rbAccept => cases h; rfl
  | rbFill a => cases h; simp [exec, execRbFill]
  | rbGet => cases h; simp [exec, execRbGet]
  | rbPeek => cases h; simp [exec, execRbPeek]
  | parse => cases h; simp [exec, execParse, parseBody_withKeyRing]

/-- An operation of the Key Ring unit runs on as if nothing had been replaced. -/
theorem exec_withRxBuf {i : Instr} {s t : State} (rb : Memory) (head tail peek : Nat) (line : List Byte) (u : Word16)
    (hi : i ∈ [Instr.krReset, .krPop] ∨ ∃ v, i = .krPush v) (h : exec i s = .next t) :
    exec i (s.withRxBuf rb head tail peek line u) = .next (t.withRxBuf rb head tail peek line u) := by
  obtain hi | ⟨v, rfl⟩ := hi
  · obtain rfl | rfl : i = .krReset ∨ i = .krPop := by simpa using hi
    · cases h; rfl
    · cases h; simp [exec, execKrPop]
  · cases h; simp [exec, execKrPush]

/-- Settles O32: every shared operation of a unit commutes with replacing the other unit. -/
theorem unitsDoNotInterfere : Obligations.UnitsDoNotInterfere :=
  ⟨fun _ _ _ kr head tail u => exec_withKeyRing kr head tail u,
    fun _ _ _ rb head tail peek line u => exec_withRxBuf rb head tail peek line u⟩

/-! ### Peeking and accepting (41_rxbuf.md R120) -/

section
variable {s : State}

/-- One more peek stands one byte further, or stays at the end of the unconsumed bytes (R118). -/
theorem State.PeekAt.next_or_end (h : s.Inv) {k : Nat} (hk : s.PeekAt k) :
    s.rbPeekNext.PeekAt (min (k + 1) s.rbAvail) := by
  obtain hlt | heq := hk.2.lt_or_eq
  · rw [Nat.min_eq_left hlt]
    exact hk.next h hlt
  · rw [Nat.min_eq_right (heq ▸ Nat.le_succ k), State.rbPeekNext, if_pos ((hk.eq_head_iff h).2 heq), ← heq]
    exact hk

/-- Any number of RB_PEEKs, from a known offset on: only the peek cursor moves, up to the end of the unconsumed
bytes. -/
theorem runOps_replicate_rbPeek (h : s.Inv) {k : Nat} (hk : s.PeekAt k) (j : Nat) (is : List Instr) :
    ∃ u : State, runOps (List.replicate j .rbPeek ++ is) s = runOps is u ∧ u.Inv ∧ u.unconsumed = s.unconsumed ∧
      u.PeekAt (min (k + j) s.rbAvail) := by
  induction j generalizing s k with
  | zero => exact ⟨s, rfl, h, rfl, by rwa [Nat.add_zero, Nat.min_eq_left hk.2]⟩
  | succ j ih =>
    have hpeek : exec .rbPeek s = .next (s.rbPeekNext.respond [s.rbPeekValue]) := rfl
    obtain ⟨u, hrun, hu, hunconsumed, hoffset⟩ := ih (exec_inv h hpeek) (hk.next_or_end h)
    refine ⟨u, ?_, hu, hunconsumed.trans s.rbPeekNext_unconsumed, ?_⟩
    · rw [List.replicate_succ, List.cons_append, runOps_cons hpeek, hrun]
    · have havail : (s.rbPeekNext.respond [s.rbPeekValue]).rbAvail = s.rbAvail := s.rbPeekNext_avail
      rw [havail] at hoffset
      rwa [show min (k + (j + 1)) s.rbAvail = min (min (k + 1) s.rbAvail + j) s.rbAvail by omega]

/-- The state RB_SYNC_PEEK and `j` RB_PEEKs lead to: the cursor stands `j` bytes past the tail, or at the end of the
unconsumed bytes. -/
theorem runOps_sync_peeks (h : s.Inv) (j : Nat) (is : List Instr) :
    ∃ u : State, runOps (.rbSyncPeek :: List.replicate j .rbPeek ++ is) s = runOps is u ∧ u.Inv ∧
      u.unconsumed = s.unconsumed ∧ u.PeekAt (min j s.rbAvail) := by
  have hsync : exec .rbSyncPeek s = .next (s.rbSyncPeek.respond []) := rfl
  have hzero : (s.rbSyncPeek.respond []).PeekAt 0 := State.rbSyncPeek_peekAt h
  obtain ⟨u, hrun, hu, hunconsumed, hoffset⟩ := runOps_replicate_rbPeek (exec_inv h hsync) hzero j is
  rw [Nat.zero_add] at hoffset
  exact ⟨u, (runOps_cons hsync _).trans hrun, hu, hunconsumed, hoffset⟩

/-- An RB_GET returns the first unconsumed byte and consumes it (R115). -/
theorem runOps_rbGet (h : s.Inv) {b : Byte} {bs : List Byte} (hbytes : s.unconsumed = b :: bs) :
    ∃ t : State, runOps [.rbGet] s = .next t ∧ t.response = [0x00#8, b] ∧ t.unconsumed = bs := by
  refine ⟨s.rbGet.respond [s.rbGetValue], rfl, ?_, ?_⟩
  · rw [State.respond_response, State.rbGetValue_eq h, hbytes]; rfl
  · rw [State.respond_unconsumed, State.rbGet_unconsumed h, hbytes]; rfl

end

/-- Settles O33: the lookahead moves only the peek cursor, and an accept drops what it stands past. -/
theorem peekAcceptIsTransactional : Obligations.PeekAcceptIsTransactional := by
  intro s j hs
  constructor
  · intro b bs hbytes
    obtain ⟨u, hrun, hu, hunconsumed, -⟩ := runOps_sync_peeks hs j [.rbGet]
    rw [hrun]
    exact runOps_rbGet hu (hunconsumed.trans hbytes)
  · intro b hj hb
    obtain ⟨u, hrun, hu, hunconsumed, hoffset⟩ := runOps_sync_peeks hs j [.rbAccept, .rbGet]
    rw [State.unconsumed_length] at hj
    rw [Nat.min_eq_left hj.le] at hoffset
    have haccept : exec .rbAccept u = .next (u.rbAccept.respond []) := rfl
    have hdropped : (u.rbAccept.respond []).unconsumed = b :: s.unconsumed.drop (j + 1) := by
      rw [State.respond_unconsumed, State.rbAccept_unconsumed hu hoffset, hunconsumed,
        List.drop_eq_getElem?_toList_append, hb]
      rfl
    rw [hrun, runOps_cons haccept]
    exact runOps_rbGet (exec_inv hu haccept) hdropped

/-! ### The eight operations, each by its own rule (41_rxbuf.md R111 to R119) -/

/-- Settles O25: with both cursors at 0 their distance is 0. -/
theorem rbResetEmptiesTheBuffer : Obligations.RbResetEmptiesTheBuffer := by
  intro s
  refine ⟨_, rfl, rfl, ?_⟩
  have hempty : dist s.params.nRb 0 0 = 0 := dist_self _ 0
  exact congrArg (fun n => Host.Outcome.next (State.respond _ [countByte n])) hempty

/-- Settles O28: a distance in an array of at most 256 slots fits in the count's byte. -/
theorem availCountsAreCircularDistances : Obligations.AvailCountsAreCircularDistances := by
  intro s hwf hcursors
  obtain ⟨hhead, htail, hpeek, -⟩ := hcursors
  have hcount : ∀ c < s.params.nRb, (countByte (dist s.params.nRb c s.rbHead)).toNat =
      if c ≤ s.rbHead then s.rbHead - c else s.params.nRb + s.rbHead - c := by
    intro c hc
    have hlt : dist s.params.nRb c s.rbHead < s.params.nRb := dist_lt (Nat.zero_lt_of_lt hc)
    rw [countByte_toNat (by omega), dist_eq_ite hc hhead]
  exact ⟨_, _, rfl, hcount _ htail, rfl, hcount _ hpeek⟩

/-- Settles O29: the two branches of R115. -/
theorem rbGetConsumesTheOldestByte : Obligations.RbGetConsumesTheOldestByte := by
  refine fun s => ⟨fun hempty => ?_, fun hne => ?_⟩
  · simp [exec, execRbGet, State.rbGet, State.rbGetValue, hempty, State.respond, statusOk, sentinel]
  · simp [exec, execRbGet, State.rbGet, State.rbGetValue, hne, State.respond, statusOk, inc]

/-- Settles O30: the two branches of R118. -/
theorem rbPeekReadsTheNextByte : Obligations.RbPeekReadsTheNextByte := by
  refine fun s => ⟨fun hnone => ?_, fun hne => ?_⟩
  · simp [exec, execRbPeek, State.rbPeekNext, State.rbPeekValue, hnone, State.respond, statusOk, sentinel]
  · simp [exec, execRbPeek, State.rbPeekNext, State.rbPeekValue, hne, State.respond, statusOk, inc]

/-- Settles O31: once two cursors meet, the count from the one is the count from the other. -/
theorem syncAndAcceptMoveOneCursor : Obligations.SyncAndAcceptMoveOneCursor :=
  fun _ => ⟨rfl, rfl, rfl, rfl⟩

end Sys2Proof.Machine

namespace Sys2Proof.Machine

/-! ### The Key Ring is a queue of at most `N_KR - 1` codes (42_keyring.md R141 to R143) -/

section
variable {s : State}

@[simp] theorem State.respond_keys (s : State) (fields : List Byte) : (s.respond fields).keys = s.keys := rfl

@[simp] theorem State.respond_krCount (s : State) (fields : List Byte) : (s.respond fields).krCount = s.krCount := rfl

theorem State.keys_eq_nil (hempty : s.krHead = s.krTail) : s.keys = [] := by
  simp [State.keys, State.krCount, hempty]

/-- The rule of KR_PUSH on a full ring (R141). -/
theorem exec_krPush_of_full (v : Byte) (hfull : s.krFull = true) :
    exec (.krPush v) s = .next (s.respond [0x00#8]) := by
  rw [exec, execKrPush, State.krPush_full v hfull, hfull]
  rfl

/-- The rule of KR_PUSH on a ring with room (R141). -/
theorem exec_krPush_of_room (v : Byte) (hroom : s.krFull = false) :
    exec (.krPush v) s = .next ((s.krPush v).respond [0x01#8]) := by
  rw [exec, execKrPush, hroom]
  rfl

/-- Pushes that fit all succeed, and queue their codes in order. -/
theorem responses_krPush_all (h : s.Inv) {codes : List Byte} (hfit : s.krCount + codes.length < s.params.nKr)
    (is : List Instr) :
    ∃ t : State, responses (codes.map Instr.krPush ++ is) s =
        List.replicate codes.length [0x00#8, 0x01#8] ++ responses is t ∧
      t.Inv ∧ t.params = s.params ∧ t.keys = s.keys ++ codes := by
  induction codes generalizing s with
  | nil => exact ⟨s, rfl, h, rfl, (List.append_nil _).symm⟩
  | cons v vs ih =>
    rw [List.length_cons] at hfit
    have hroom : s.krFull = false := by
      rw [Bool.eq_false_iff, ne_eq, State.krFull_iff h]
      omega
    have hpush := exec_krPush_of_room v hroom
    obtain ⟨-, hcount, hkeys⟩ := State.krPush_spec h v hroom
    have hfit' : ((s.krPush v).respond [0x01#8]).krCount + vs.length <
        ((s.krPush v).respond [0x01#8]).params.nKr := by
      rw [State.respond_krCount, hcount, State.respond_params, State.krPush_params]
      omega
    obtain ⟨t, hrun, ht, hparams, hqueued⟩ := ih (exec_inv h hpush) hfit'
    refine ⟨t, ?_, ht, by simpa using hparams, by simpa [hkeys] using hqueued⟩
    rw [List.map_cons, List.cons_append, responses_cons hpush, hrun]
    rfl

/-- Pops until the ring is empty return its codes in order (R142). -/
theorem responses_krPop_drain (h : s.Inv) {codes : List Byte} (hkeys : s.keys = codes) :
    responses (List.replicate codes.length .krPop) s = codes.map (fun v => [0x00#8, v]) := by
  induction codes generalizing s with
  | nil => rfl
  | cons v vs ih =>
    have hpop : exec .krPop s = .next (s.krPop.respond [s.krPopValue]) := rfl
    obtain ⟨-, -, hrest, hvalue⟩ := State.krPop_spec h
    rw [hkeys] at hrest hvalue
    rw [List.length_cons, List.replicate_succ, responses_cons hpop, ih (exec_inv h hpop) hrest,
      State.respond_response, hvalue]
    rfl

end

/-- Settles O38: the pushes queue the codes and fill the ring, the extra push leaves the queue as it is, and the pops
drain it. -/
theorem keyRingIsFifoAndOverflowDropsTheNew : Obligations.KeyRingIsFifoAndOverflowDropsTheNew := by
  intro s codes extra hs hempty hlength
  have hnone : s.keys = [] := State.keys_eq_nil hempty
  have hfit : s.krCount + codes.length < s.params.nKr := by
    have hpos := hs.nKr_pos
    rw [← State.keys_length, hnone, List.length_nil]
    omega
  obtain ⟨t, hpushes, ht, hparams, hkeys⟩ :=
    responses_krPush_all hs hfit (.krPush extra :: List.replicate codes.length .krPop)
  rw [hnone, List.nil_append] at hkeys
  have hfull : t.krFull = true := by
    rw [State.krFull_iff ht, ← State.keys_length, hkeys, hparams, hlength]
  have hextra := exec_krPush_of_full extra hfull
  rw [List.append_assoc, List.singleton_append, hpushes, responses_cons hextra,
    responses_krPop_drain (exec_inv ht hextra) hkeys, List.append_assoc]
  rfl

/-! ### The three operations, each by its own rule (42_keyring.md R140 to R142) -/

/-- Settles O35: R140's assignment, as the model writes it. -/
theorem krResetEmptiesTheRing : Obligations.KrResetEmptiesTheRing := fun _ => rfl

/-- Settles O36: the two branches of R141; the slot list after the push is the `m`. -/
theorem krPushStoresOrDrops : Obligations.KrPushStoresOrDrops := by
  refine fun s v => ⟨fun hfull => exec_krPush_of_full v (beq_iff_eq.2 hfull), fun hne => ?_⟩
  have hroom : s.krFull = false := beq_eq_false_iff_ne.2 hne
  refine ⟨Memory.write s.kr s.krHead v, ?_, Memory.read_write_same _ _ _, fun _ => Memory.read_write_other⟩
  rw [exec_krPush_of_room v hroom, State.krPush, if_neg (Bool.eq_false_iff.1 hroom)]
  rfl

/-- Settles O37: the two branches of R142. -/
theorem krPopRemovesTheOldest : Obligations.KrPopRemovesTheOldest := by
  refine fun s => ⟨fun hempty => ?_, fun hne => ?_⟩
  · have he : s.krEmpty = true := beq_iff_eq.2 hempty
    rw [exec, execKrPop, State.krPop, State.krPopValue, if_pos he, if_pos he]
    rfl
  · have he : ¬ s.krEmpty = true := fun he => hne (beq_iff_eq.1 he)
    rw [exec, execKrPop, State.krPop, State.krPopValue, if_neg he, if_neg he]
    rfl

end Sys2Proof.Machine

namespace Sys2Proof.Machine

/-! ### PARSE as the byte framer (43_framer.md R152, R153, R166, R167) -/

/-- Settles O40: the fill appends what it took, and `parseCandidate_framesAs` does the rest. -/
theorem parseRefinesTheByteFramer : Obligations.ParseRefinesTheByteFramer := by
  intro s hs
  obtain ⟨-, -, hfill⟩ := State.rbFill_spec hs s.params.fillMax
  obtain ⟨hinv, hsame, hresult, hrest⟩ := parseBody_framesAs hs
  rw [hfill, State.rbFill_params] at hresult hrest
  refine ⟨_, rfl, State.respond_inv hinv _, ?_, hrest, hsame.linePending.trans (s.rbFill_linePending _)⟩
  rw [State.respond_response, hresult]
  rfl

/-- The bytes behind a header that hold a whole candidate: its data, its CRC bytes, and what follows (R157). -/
theorem exists_candidate_of_length_le {m : Nat} {rest : List Byte} (h : m + 2 ≤ rest.length) :
    ∃ (d : List Byte) (lo hi : Byte) (more : List Byte), rest = d ++ lo :: hi :: more ∧ d.length = m := by
  refine ⟨rest.take m, rest[m], rest[m + 1], rest.drop (m + 2), ?_, List.length_take_of_le (by omega)⟩
  rw [← List.drop_eq_getElem_cons, ← List.drop_eq_getElem_cons, List.take_append_drop]

/-- The byte framer on a whole candidate that passes steps 3 and 4: its checksum decides (R159). -/
theorem frameBytes_candidate {p : Params} {c n lo hi : Byte} {d : List Byte} (more : List Byte)
    (hc : ¬ p.maxCmd < opId c) (hn : ¬ p.maxData < n.toNat) (hd : d.length = n.toNat) :
    frameBytes p (c :: n :: (d ++ lo :: hi :: more)) =
      if (Packet.mk c n d lo hi).good then (.goodMsg ⟨c, n, d, lo, hi⟩, n.toNat + 4) else (.tryAgain, 1) := by
  rw [frameBytes_complete p c n _ hc hn (by simp [hd])]
  simp [← hd]

/-- What the byte framer answers and consumes: nothing on too few bytes, one byte, or the packet at the front
(R166, R167). -/
theorem frameBytes_cases (p : Params) (u : List Byte) :
    (frameBytes p u = (.giveUp, 0) ∧ u.length < p.maxData + 4) ∨
    (frameBytes p u = (.tryAgain, 1) ∧ 4 ≤ u.length) ∨
    ∃ (pkt : Packet) (more : List Byte), frameBytes p u = (.goodMsg pkt, pkt.bytes.length) ∧
      pkt.data.length = pkt.dataLength.toNat ∧ u = pkt.bytes ++ more := by
  by_cases hshort : u.length < 4
  · exact .inl ⟨frameBytes_short p u hshort, by omega⟩
  match u, hshort with
  | [_], hshort => simp at hshort
  | c :: n :: rest, hshort =>
    have hlen : (c :: n :: rest).length = rest.length + 2 := rfl
    by_cases hc : p.maxCmd < opId c
    · exact .inr (.inl ⟨frameBytes_command p c n rest (by omega) hc, by omega⟩)
    by_cases hn : p.maxData < n.toNat
    · exact .inr (.inl ⟨frameBytes_length p c n rest (by omega) hc hn, by omega⟩)
    by_cases hr : rest.length < n.toNat + 2
    · exact .inl ⟨frameBytes_incomplete p c n rest (by omega) hc hn hr, by omega⟩
    obtain ⟨d, lo, hi, more, rfl, hd⟩ := exists_candidate_of_length_le (Nat.not_lt.1 hr)
    have hframe := frameBytes_candidate (lo := lo) (hi := hi) more hc hn hd
    cases hgood : (Packet.mk c n d lo hi).good with
    | true => exact .inr (.inr ⟨⟨c, n, d, lo, hi⟩, more, by simp [hframe, hgood, Packet.bytes, hd], hd,
        by simp [Packet.bytes]⟩)
    | false => exact .inr (.inl ⟨by simp [hframe, hgood], by omega⟩)

/-- Settles O43: the byte framer gives up only on fewer than `MAX_DATA + 4` bytes, and else consumes some. -/
theorem parseProgress : Obligations.ParseProgress := by
  intro s hs hmany
  obtain ⟨t, hexec, -, hresponse, hrest, -⟩ := parseRefinesTheByteFramer s hs
  refine ⟨t, hexec, ?_⟩
  rw [hresponse, hrest, List.length_drop]
  simp only [Params.fillMax] at hmany ⊢
  obtain ⟨-, hfew⟩ | ⟨hframe, hlen⟩ | ⟨pkt, more, hframe, -, -⟩ := frameBytes_cases s.params
    (s.unconsumed ++ s.linePending.take (s.fillCount s.params.maxData))
  · omega
  · rw [hframe]
    exact ⟨.inl rfl, by omega⟩
  · rw [hframe]
    have hbytes : 0 < pkt.bytes.length := Nat.succ_pos _
    exact ⟨.inr rfl, by omega⟩

/-- Settles O44, from what the byte framer consumes. -/
theorem parseBoundedDiscard : Obligations.ParseBoundedDiscard := by
  intro s hs
  obtain ⟨t, hexec, -, hresponse, hrest, -⟩ := parseRefinesTheByteFramer s hs
  refine ⟨t, hexec, ?_⟩
  simp only [Params.fillMax] at hresponse hrest
  intro u
  obtain ⟨hframe, -⟩ | ⟨hframe, hlen⟩ | ⟨pkt, more, hframe, hdata, hu⟩ := frameBytes_cases s.params u
  · rw [hframe] at hresponse hrest
    exact .inl ⟨hresponse, hrest⟩
  · rw [hframe] at hresponse hrest
    refine .inr (.inl ⟨hresponse, u[0], ?_⟩)
    rw [hrest, ← List.drop_eq_getElem_cons]
    rfl
  · rw [hframe] at hresponse hrest
    obtain ⟨tail, hheader, htail⟩ := Packet.bytes_eq_header_append hdata
    have hmore : t.unconsumed = more := by rw [hrest, ← List.drop_left (l₁ := pkt.bytes) (l₂ := more), ← hu]
    refine .inr (.inr ⟨pkt.command, pkt.dataLength, tail, ?_, htail, ?_⟩)
    · rw [hresponse, ParseResult.fields, hheader]
      rfl
    · rw [← hheader, hmore, hu]

/-! ### The classes of PARSE_DISPATCH (43_framer.md R160 to R164) -/

section
variable {q : Byte} {p : Packet} {s : State}

/-- A key event without data pushes nothing (R161). -/
theorem dispatch_keyNoData (hkey : p.command = keyEventCmd) (hdata : p.data = []) :
    dispatch q (.goodMsg p) s = s ∧ classify q (.goodMsg p) s = .keyNoData := by
  simp [dispatch, classify, hkey, hdata]

/-- A key event's code is dropped when the ring is full (R161). -/
theorem dispatch_keyDropped {v : Byte} {vs : List Byte} (hkey : p.command = keyEventCmd) (hdata : p.data = v :: vs)
    (hfull : s.krFull = true) : dispatch q (.goodMsg p) s = s ∧ classify q (.goodMsg p) s = .keyDropped := by
  simp [dispatch, classify, hkey, hdata, hfull, State.krPush_full]

/-- A key event's first data byte is stored when the ring has room (R161). -/
theorem dispatch_keyPushed {v : Byte} {vs : List Byte} (hkey : p.command = keyEventCmd) (hdata : p.data = v :: vs)
    (hroom : s.krFull = false) :
    dispatch q (.goodMsg p) s =
        { s with kr := Memory.write s.kr s.krHead v, krHead := (s.krHead + 1) % s.params.nKr } ∧
      classify q (.goodMsg p) s = .keyPushed := by
  simp [dispatch, classify, hkey, hdata, hroom, State.krPush, inc]

/-- The awaited acknowledgement changes nothing (R162). -/
theorem dispatch_ack (hkey : p.command ≠ keyEventCmd) (hack : isExpectedAck q p.command = true) :
    dispatch q (.goodMsg p) s = s ∧ classify q (.goodMsg p) s = .ack := by
  simp [dispatch, classify, hkey, hack]

/-- Every other packet is counted (R163). -/
theorem dispatch_other (hkey : p.command ≠ keyEventCmd) (hack : isExpectedAck q p.command = false) :
    dispatch q (.goodMsg p) s = { s with unmatched := s.unmatched + 1#16 } ∧
      classify q (.goodMsg p) s = .other := by
  simp [dispatch, classify, hkey, hack]

/-- A dispatch leaves the Receive Buffer and the line as PARSE left them (R160). -/
theorem dispatch_keeps_rxBuf (q : Byte) (r : ParseResult) (s : State) :
    (dispatch q r s).rb = s.rb ∧ (dispatch q r s).rbHead = s.rbHead ∧
      (dispatch q r s).linePending = s.linePending := by
  obtain ⟨-, hsame | ⟨v, hpush⟩⟩ | ⟨-, -, hcount⟩ := dispatch_cases q r s
  · rw [hsame]; exact ⟨rfl, rfl, rfl⟩
  · rw [hpush]; exact ⟨s.krPush_rb v, s.krPush_rbHead v, s.krPush_linePending v⟩
  · rw [hcount]; exact ⟨rfl, rfl, rfl⟩

end

/-- A result without a packet has class NONE and changes nothing more (R164). -/
theorem afterDispatch_noMessage {q r : Byte} {s : State} (h : [(parseBody s).1.code] ++ (parseBody s).1.fields = [r]) :
    afterDispatch q s = (parseBody s).2.respond [r, PacketClass.none.code] := by
  unfold afterDispatch
  cases hresult : (parseBody s).1 with
  | giveUp => rw [hresult] at h; cases h; rfl
  | tryAgain => rw [hresult] at h; cases h; rfl
  | goodMsg p => rw [hresult] at h; cases h

/-- A good packet is dispatched in the state PARSE left, and answered with its class and fields (R160). -/
theorem afterDispatch_goodMsg {q : Byte} {p : Packet} {s u : State} {cls : PacketClass}
    (hresult : (parseBody s).1 = .goodMsg p)
    (h : dispatch q (.goodMsg p) (parseBody s).2 = u ∧ classify q (.goodMsg p) (parseBody s).2 = cls) :
    afterDispatch q s = u.respond (resultGoodMsg :: cls.code :: p.bytes) := by
  obtain ⟨rfl, rfl⟩ := h
  rw [afterDispatch, hresult]
  rfl

/-- Settles O48: each class by its test, at the packet PARSE returns. -/
theorem dispatchClassifiesTheParse : Obligations.DispatchClassifiesTheParse := by
  intro s q
  refine ⟨_, _, rfl, exec_parseDispatch q s, fun r hresponse => ?_, fun c n rest hresponse => ?_⟩
  · exact afterDispatch_noMessage (List.cons.inj hresponse).2
  obtain ⟨p, hresult, hbytes⟩ := ParseResult.eq_goodMsg_of_code_fields (List.cons.inj hresponse).2
  have hdata := parseBody_data_length hresult
  have hdispatch {u : State} {cls : PacketClass} := afterDispatch_goodMsg (q := q) (u := u) (cls := cls) hresult
  rw [hbytes] at hdispatch
  obtain ⟨rfl, rfl, hrest⟩ : p.command = c ∧ p.dataLength = n ∧ p.data ++ [p.crcLo, p.crcHi] = rest := by
    simpa [Packet.bytes] using hbytes
  refine ⟨fun hkey hn => ?_, fun hkey hn => ?_, fun hkey hack htag => ?_, fun hkey hack => ?_⟩
  · have hempty : p.data = [] := List.length_eq_zero_iff.1 (by rw [hdata, hn]; rfl)
    exact hdispatch (dispatch_keyNoData hkey hempty)
  · obtain ⟨v, vs, hcons⟩ : ∃ v vs, p.data = v :: vs := by
      refine List.exists_cons_of_ne_nil fun hempty => hn (BitVec.eq_of_toNat_eq ?_)
      rw [← hdata, hempty]; rfl
    refine ⟨v, vs ++ [p.crcLo, p.crcHi], by rw [← hrest, hcons]; rfl, fun hfull => ?_, fun hroom => ?_⟩
    · exact hdispatch (dispatch_keyDropped hkey hcons (beq_iff_eq.2 hfull))
    · exact hdispatch (dispatch_keyPushed hkey hcons (beq_eq_false_iff_ne.2 hroom))
  · exact hdispatch (dispatch_ack hkey ((isExpectedAck_iff _ _).2 ⟨hack, htag⟩))
  · exact hdispatch (dispatch_other hkey ((isExpectedAck_false_iff _ _).2 hack))

/-- An acknowledgement has bit 6 set, and the key-event command does not (R160). -/
theorem ackOf_ne_keyEventCmd (q : Byte) : ackOf q ≠ keyEventCmd := by
  intro heq
  have hbit := congrArg (BitVec.getLsbD · 6) heq
  simp [ackOf, ackTag, keyEventCmd] at hbit

/-- Settles O49: the class of a good packet by its two tests, whose commands differ. -/
theorem keyEventIsNoAcknowledgement : Obligations.KeyEventIsNoAcknowledgement := by
  refine ⟨ackOf_ne_keyEventCmd, fun q s t cls c rest hexec hresponse => ?_⟩
  rw [exec_parseDispatch] at hexec
  cases hexec
  obtain ⟨p, -, rfl, rfl⟩ := parseBody_of_dispatch_goodMsg hresponse
  obtain ⟨hkey, hclass⟩ | ⟨hkey, hack, hclass⟩ | ⟨hkey, hack, hclass⟩ := classify_goodMsg q p (parseBody s).2
  · have hne := (ackOf_ne_keyEventCmd q).symm
    rw [hkey]
    generalize classify q (.goodMsg p) (parseBody s).2 = cls at hclass ⊢
    simp only [List.mem_cons, List.not_mem_nil, or_false] at hclass
    obtain rfl | rfl | rfl := hclass <;> simp [PacketClass.code, hne]
  · obtain ⟨hcommand, htag⟩ := (isExpectedAck_iff _ _).1 hack
    rw [hclass]
    simp [PacketClass.code, hkey, hcommand.symm, htag]
  · have hother := (isExpectedAck_false_iff _ _).1 hack
    have hnot : ¬ (p.command = ackOf q ∧ p.command.toNat < 0xC0) := fun h => by
      rw [(isExpectedAck_iff _ _).2 h] at hack; cases hack
    rw [hclass]
    simpa [PacketClass.code, hkey, hother] using hnot

/-! ### The frame of PARSE and PARSE_DISPATCH (43_framer.md R150, R160) -/

/-- What the fill of PARSE does to the array, its head and the line is all that PARSE does to them (R150, R153). -/
theorem parseBody_rxBuf {s : State} (hs : s.Inv) :
    (parseBody s).2.rbHead = (s.rbHead + s.fillCount s.params.maxData) % s.params.nRb ∧
      (parseBody s).2.linePending = s.linePending.drop (s.fillCount s.params.maxData) ∧
      ∀ a, (∀ j < s.fillCount s.params.maxData, a ≠ (s.rbHead + j) % s.params.nRb) →
        Memory.read (parseBody s).2.rb a = Memory.read s.rb a := by
  obtain ⟨hhead, -, hother⟩ := State.rbFill_writes hs s.params.maxData
  have hsame := parseBody_same s
  exact ⟨hsame.rbHead.trans hhead, hsame.linePending.trans (s.rbFill_linePending _),
    fun a ha => hsame.rb ▸ hother a ha⟩

/-- Settles O42: PARSE changes the array by its fill, and the dispatch after it not at all. -/
theorem parseFrame : Obligations.ParseFrame := by
  intro i s hs hi
  obtain ⟨hhead, hline, hother⟩ := parseBody_rxBuf hs
  obtain ⟨hparams, hagenda⟩ := parseBody_keeps_params_agenda s
  obtain rfl | ⟨q, rfl⟩ := hi
  · obtain ⟨hkr, hkrHead, hkrTail⟩ := parseBody_keeps_keyRing s
    exact ⟨_, rfl, hhead, hline, hother, hparams, hagenda,
      fun _ => ⟨hkr, hkrHead, hkrTail, parseBody_keeps_unmatched s⟩⟩
  · obtain ⟨hrb', hhead', hline'⟩ := dispatch_keeps_rxBuf q (parseBody s).1 (parseBody s).2
    obtain ⟨hparams', hagenda'⟩ := dispatch_keeps_params_agenda q (parseBody s).1 (parseBody s).2
    exact ⟨_, exec_parseDispatch q s, hhead'.trans hhead, hline'.trans hline, fun a ha => hrb' ▸ hother a ha,
      hparams'.trans hparams, hagenda'.trans hagenda, fun h => nomatch h⟩

/-! ### The discard counter (43_framer.md R165) -/

/-- Settles O50: R165's response, as the model writes it. -/
theorem unmatchedReadResponds : Obligations.UnmatchedReadResponds := fun _ => rfl

/-! ### The cursors of one PARSE (43_framer.md R171) -/

/-- The state with the peek cursor `j` bytes past the tail: after the sync of step 3 and `j` peeks (R155 to R158). -/
def State.lookAhead (s : State) (j : Nat) : State := { s with rbPeek := (s.rbTail + j) % s.params.nRb }

/-- The state one byte further on, with the peek cursor left `j` bytes past the old tail: a TRY_AGAIN (R171). -/
def State.discardOne (s : State) (j : Nat) : State :=
  { s with rbTail := (s.rbTail + 1) % s.params.nRb, rbPeek := (s.rbTail + j) % s.params.nRb }

/-- The state `j` bytes further on, with both cursors: a GOOD_MSG (R171). -/
def State.consume (s : State) (j : Nat) : State :=
  { s with rbTail := (s.rbTail + j) % s.params.nRb, rbPeek := (s.rbTail + j) % s.params.nRb }

section
variable {s : State} {j : Nat}

@[simp] theorem State.lookAhead_rbTail : (s.lookAhead j).rbTail = s.rbTail := rfl

@[simp] theorem State.lookAhead_rbPeek : (s.lookAhead j).rbPeek = (s.rbTail + j) % s.params.nRb := rfl

@[simp] theorem State.discardOne_rbTail : (s.discardOne j).rbTail = (s.rbTail + 1) % s.params.nRb := rfl

@[simp] theorem State.discardOne_rbPeek : (s.discardOne j).rbPeek = (s.rbTail + j) % s.params.nRb := rfl

@[simp] theorem State.consume_rbTail : (s.consume j).rbTail = (s.rbTail + j) % s.params.nRb := rfl

@[simp] theorem State.consume_rbPeek : (s.consume j).rbPeek = (s.rbTail + j) % s.params.nRb := rfl

theorem State.lookAhead_inv (h : s.Inv) (hj : j ≤ s.rbAvail) : (s.lookAhead j).Inv := h.of_peek rfl hj

theorem State.lookAhead_peekAt (hj : j ≤ s.rbAvail) : (s.lookAhead j).PeekAt j := ⟨rfl, hj⟩

theorem State.rbSyncPeek_eq_lookAhead (h : s.Inv) : s.rbSyncPeek = s.lookAhead 0 := by
  rw [State.lookAhead, Nat.add_zero, Nat.mod_eq_of_lt h.cursors.2.1, State.rbSyncPeek]

theorem State.lookAhead_rbPeekNext (h : s.Inv) (hj : j < s.rbAvail) :
    (s.lookAhead j).rbPeekNext = s.lookAhead (j + 1) := by
  have hne : (s.lookAhead j).rbPeek ≠ (s.lookAhead j).rbHead := fun e =>
    hj.ne (((State.lookAhead_peekAt hj.le).eq_head_iff (State.lookAhead_inv h hj.le)).1 e)
  rw [State.rbPeekNext, if_neg hne]
  simp [State.lookAhead, inc, Nat.add_assoc]

theorem State.lookAhead_rbPeekValue (h : s.Inv) {b : Byte} (hb : s.unconsumed[j]? = some b) :
    (s.lookAhead j).rbPeekValue = b := by
  obtain ⟨hlt, hget⟩ := List.getElem?_eq_some_iff.1 hb
  have hj : j < s.rbAvail := by simpa using hlt
  rw [(State.lookAhead_peekAt hj.le).value (State.lookAhead_inv h hj.le) hj]
  exact hget

theorem State.lookAhead_rbPeekAvail (h : s.Inv) (hj : j ≤ s.rbAvail) :
    (s.lookAhead j).rbPeekAvail = s.rbAvail - j :=
  (State.lookAhead_peekAt hj).peekAvail (State.lookAhead_inv h hj)

theorem State.lookAhead_rbPeekMany (h : s.Inv) {n : Nat} (hj : j + n ≤ s.rbAvail) :
    (s.lookAhead j).rbPeekMany n = s.lookAhead (j + n) := by
  induction n generalizing j with
  | zero => rfl
  | succ n ih =>
    rw [State.rbPeekMany, State.lookAhead_rbPeekNext h (by omega), ih (by omega)]
    congr 1; omega

theorem State.lookAhead_rbPeekBytes (h : s.Inv) {n : Nat} (hj : j + n ≤ s.rbAvail) :
    (s.lookAhead j).rbPeekBytes n = (s.unconsumed.drop j).take n :=
  ((State.lookAhead_peekAt (by omega)).many (State.lookAhead_inv h (by omega)) n hj).1

theorem State.lookAhead_rbAccept : (s.lookAhead j).rbAccept = s.consume j := rfl

/-- A discard after a lookahead of at least one byte leaves the peek cursor where it stands (R115, R171). -/
theorem State.lookAhead_rbGet (h : s.Inv) (hpos : 0 < j) (hj : j ≤ s.rbAvail) :
    (s.lookAhead j).rbGet = s.discardOne j := by
  have hne : s.rbTail ≠ s.rbHead := fun e => by have := h.rbAvail_eq_zero.2 e; omega
  have hdrag : (s.lookAhead j).rbPeek ≠ (s.lookAhead j).rbTail := fun e => by
    have hdist := (State.lookAhead_peekAt hj).dist_eq (State.lookAhead_inv h hj)
    rw [e, dist_self] at hdist
    omega
  rw [State.rbGet, if_neg (show (s.lookAhead j).rbTail ≠ (s.lookAhead j).rbHead from hne), if_neg hdrag]
  rfl

/-- Fewer than four bytes: no cursor moves, and there is no sync (R154). -/
theorem parseCandidate_short (hshort : s.rbAvail < 4) : parseCandidate s = (.giveUp, s) := if_pos hshort

end

section
variable {s : State} {c n lo hi : Byte} {d rest more : List Byte}

/-- Step 3 (R155): the command test, with the peek cursor one byte past the tail. -/
theorem parseCandidate_eq (h : s.Inv) (hu : s.unconsumed = c :: rest) (hlen : 4 ≤ s.rbAvail) :
    parseCandidate s =
      if s.params.maxCmd < opId c then (.tryAgain, s.discardOne 1) else parseLength c (s.lookAhead 1) := by
  have hvalue : (s.lookAhead 0).rbPeekValue = c := State.lookAhead_rbPeekValue h (by rw [hu]; rfl)
  rw [parseCandidate, if_neg (Nat.not_lt.2 hlen), parseCommand, State.rbSyncPeek_eq_lookAhead h]
  simp only [hvalue, State.lookAhead_rbPeekNext h (show 0 < s.rbAvail by omega)]
  rw [State.lookAhead_rbGet h Nat.one_pos (by omega)]

/-- Steps 4 and 5 (R156, R157): the length test and completeness, with the peek cursor two bytes past the tail. -/
theorem parseLength_lookAhead (h : s.Inv) (hu : s.unconsumed = c :: n :: rest) :
    parseLength c (s.lookAhead 1) =
      if s.params.maxData < n.toNat then (.tryAgain, s.discardOne 2)
      else if s.rbAvail < n.toNat + 4 then (.giveUp, s.lookAhead 2)
      else parseCheck c n (s.lookAhead 2) := by
  have hlen : rest.length + 2 = s.rbAvail := by rw [← State.unconsumed_length, hu]; rfl
  have hvalue : (s.lookAhead 1).rbPeekValue = n := State.lookAhead_rbPeekValue h (by rw [hu]; rfl)
  have hfew : s.rbAvail - 2 < n.toNat + 2 ↔ s.rbAvail < n.toNat + 4 := by omega
  simp only [parseLength, hvalue, State.lookAhead_rbPeekNext h (show 1 < s.rbAvail by omega),
    State.lookAhead_rbGet h Nat.two_pos (show 2 ≤ s.rbAvail by omega),
    State.lookAhead_rbPeekAvail h (show 2 ≤ s.rbAvail by omega), hfew]
  rfl

/-- Steps 6 and 7 (R158, R159): the whole candidate is peeked, and its checksum decides. -/
theorem parseCheck_lookAhead (h : s.Inv) (hu : s.unconsumed = c :: n :: (d ++ lo :: hi :: more))
    (hd : d.length = n.toNat) :
    parseCheck c n (s.lookAhead 2) =
      if (Packet.mk c n d lo hi).good then (.goodMsg ⟨c, n, d, lo, hi⟩, s.consume (n.toNat + 4))
      else (.tryAgain, s.discardOne (n.toNat + 4)) := by
  have hlen : n.toNat + 4 + more.length = s.rbAvail := by
    rw [← State.unconsumed_length, hu]; simp [hd]; omega
  have hbytes : (s.lookAhead 2).rbPeekBytes n.toNat = d := by
    rw [State.lookAhead_rbPeekBytes h (by omega), hu]
    simp [← hd]
  have hlo : (s.lookAhead (n.toNat + 2)).rbPeekValue = lo :=
    State.lookAhead_rbPeekValue h (by rw [hu]; simp [← hd])
  have hhi : (s.lookAhead (n.toNat + 3)).rbPeekValue = hi :=
    State.lookAhead_rbPeekValue h (by rw [hu]; simp [← hd])
  simp only [parseCheck, hbytes, State.lookAhead_rbPeekMany h (show 2 + n.toNat ≤ s.rbAvail by omega),
    Nat.add_comm 2, hlo, State.lookAhead_rbPeekNext h (show n.toNat + 2 < s.rbAvail by omega), hhi,
    State.lookAhead_rbPeekNext h (show n.toNat + 3 < s.rbAvail by omega), State.lookAhead_rbAccept,
    State.lookAhead_rbGet h (show 0 < n.toNat + 4 by omega) (show n.toNat + 4 ≤ s.rbAvail by omega)]

end

/-- Settles O41: the rows of R171, each by the tests that lead to it, from the state after the fill. -/
theorem parseCursorEffects : Obligations.ParseCursorEffects := by
  intro s hs
  obtain ⟨hinv, -, hfill⟩ := State.rbFill_spec hs s.params.fillMax
  obtain ⟨hhead, -⟩ := parseBody_rxBuf hs
  have hparse : parseBody s = parseCandidate (s.rbFill s.params.fillMax) := rfl
  have havail := State.unconsumed_length (s.rbFill s.params.fillMax)
  rw [hfill] at havail
  refine ⟨_, rfl, (s.fillCount_le _).1, hhead, fun hshort => ?_, fun c n rest hu hlen => ?_⟩
  · rw [hparse, parseCandidate_short (havail.symm.trans_lt hshort)]
    exact ⟨rfl, s.rbFill_rbTail _, s.rbFill_rbPeek _⟩
  replace hu := hfill.trans hu
  have hcommand := parseCandidate_eq hinv hu (havail ▸ hlen)
  have hlength := parseLength_lookAhead hinv hu
  rw [State.rbFill_params, opId_eq_mod, ← hparse] at hcommand
  rw [State.rbFill_params] at hlength
  refine ⟨fun hc => ?_, fun hc hn => ?_, fun hc hn hfew => ?_, fun hc hn d more lo hi hrest hd => ?_⟩
  · rw [hcommand, if_pos hc]
    exact ⟨rfl, by simp, by simp⟩
  · rw [hcommand, if_neg (Nat.not_lt.2 hc), hlength, if_pos hn]
    exact ⟨rfl, by simp, by simp⟩
  · rw [hcommand, if_neg (Nat.not_lt.2 hc), hlength, if_neg (Nat.not_lt.2 hn), if_pos (havail.symm.trans_lt hfew)]
    exact ⟨rfl, by simp, by simp⟩
  · rw [hrest] at hu
    have hwhole : ¬ (s.rbFill s.params.fillMax).rbAvail < n.toNat + 4 := by
      rw [← State.unconsumed_length, hu]; simp [hd]
    have hcheck := parseCheck_lookAhead hinv hu hd
    rw [hcommand, if_neg (Nat.not_lt.2 hc), hlength, if_neg (Nat.not_lt.2 hn), if_neg hwhole, hcheck]
    refine ⟨fun hcrc => ?_, fun hcrc => ?_⟩
    · have hgood : (Packet.mk c n d lo hi).good = true := beq_iff_eq.2 hcrc
      rw [if_pos hgood]
      exact ⟨rfl, by simp, by simp⟩
    · have hbad : ¬ (Packet.mk c n d lo hi).good = true := fun hgood => hcrc (beq_iff_eq.1 hgood)
      rw [if_neg hbad]
      exact ⟨rfl, by simp, by simp⟩

/-! ### Resync over garbage (43_framer.md R168, 90_conflicts.md C3) -/

/-- One byte that fails the command test, with three behind it, costs one TRY_AGAIN (R155, R168). -/
theorem exec_parse_garbage {s : State} {b : Byte} {rest : List Byte} (hs : s.Inv) (hu : s.unconsumed = b :: rest)
    (hlen : 3 ≤ rest.length) (hb : s.params.maxCmd < opId b) :
    ∃ t taken, exec .parse s = .next t ∧ t.Inv ∧ t.response = [0x00#8, 0x01#8] ∧
      t.unconsumed = rest ++ taken ∧ taken ++ t.linePending = s.linePending := by
  obtain ⟨t, hexec, hinv, hresponse, hrest, hline⟩ := parseRefinesTheByteFramer s hs
  obtain ⟨n, rest', rfl⟩ := List.exists_cons_of_ne_nil (List.ne_nil_of_length_pos (by omega : 0 < rest.length))
  have hframe := frameBytes_command s.params b n (rest' ++ s.fillTaken s.params.fillMax)
    (by simp only [List.length_cons] at hlen; rw [List.length_append]; omega) hb
  rw [hu, List.cons_append, List.cons_append, ← State.fillTaken, hframe] at hresponse hrest
  exact ⟨t, s.fillTaken s.params.fillMax, hexec, hinv, hresponse, hrest,
    by rw [hline, State.fillTaken, List.take_append_drop]⟩

/-- Settles O47, by induction on the garbage: each of its bytes costs one TRY_AGAIN. -/
theorem garbageCostsOneTryAgainPerByte : Obligations.GarbageCostsOneTryAgainPerByte := by
  intro g
  induction g with
  | nil => exact fun s rest _ hu _ _ => ⟨rfl, s, [], rfl, hu.trans (List.append_nil _).symm, rfl⟩
  | cons b g ih =>
    intro s rest hs hu hlen hgarbage
    obtain ⟨hb, hg⟩ := List.forall_mem_cons.1 hgarbage
    obtain ⟨t, taken, hexec, ht, hresponse, hrest, hline⟩ :=
      exec_parse_garbage (rest := g ++ rest) hs hu (by rw [List.length_append]; omega) ((opId_eq_mod b).symm ▸ hb)
    obtain ⟨hresponses, t', taken', hrun, hrest', hline'⟩ := ih t (rest ++ taken) ht
      (hrest.trans (List.append_assoc _ _ _)) (by rw [List.length_append]; omega)
      ((exec_keeps_params hexec).symm ▸ hg)
    rw [List.length_cons, List.replicate_succ, responses_cons hexec, runOps_cons hexec, hresponse, hresponses]
    exact ⟨rfl, t', taken ++ taken', hrun, hrest'.trans (List.append_assoc _ _ _),
      by rw [List.append_assoc, hline', hline]⟩

end Sys2Proof.Machine

namespace Sys2Proof.Machine

/-! ### What a step refuses (30_encoding.md R73, 60_exceptions.md R200) -/

/-- What the host port can do with the bytes it is given: settle, run an operation, or stop at a truncated op word
(R68, R72, R73). -/
theorem portTurn_cases (s : State) (bytes : List Byte) (moves : List Move) :
    (∃ t, portTurn s bytes moves = .settled t) ∨ (∃ i t, portTurn s bytes moves = .run i t) ∨
      (portTurn s bytes moves = .stop .truncatedOpWord ∧ bytes ≠ [] ∧ decode bytes = .truncated) := by
  by_cases hempty : bytes = []
  · exact .inl ⟨{ s with agenda := moves }, by rw [portTurn, hempty]; rfl⟩
  cases hdecode : decode bytes with
  | op i rest => exact .inr (.inl ⟨i, _, portTurn_of_decode_op s moves hdecode⟩)
  | reserved opcode rest => exact .inl ⟨_, portTurn_of_decode_reserved s moves hdecode⟩
  | truncated => exact .inr (.inr ⟨portTurn_of_decode_truncated s moves hempty hdecode, hempty, rfl⟩)

/-- Settles O14: in a state of the block only the host port can stop a step, and every operation completes. -/
theorem stepRefusesOnlyTruncatedWords : Obligations.StepRefusesOnlyTruncatedWords := by
  intro s hs
  have hturn := nextTurn_of_ready hs.params hs.cursors
  cases hagenda : s.agenda with
  | nil => rw [hagenda] at hturn; exact .inl ⟨_, step_settled hturn⟩
  | cons move moves =>
    rw [hagenda] at hturn
    cases move with
    | deliver bytes => exact .inl ⟨_, step_settled hturn⟩
    | blockReset => exact .inl ⟨_, step_settled hturn⟩
    | issue bytes =>
      obtain ⟨t, hport⟩ | ⟨i, t, hport⟩ | ⟨hport, hne, htruncated⟩ := portTurn_cases s bytes moves
      · exact .inl ⟨t, step_settled (hturn.trans hport)⟩
      · obtain ⟨u, hexec, -⟩ := everyOperationCompletesWithStatusOk i t
        exact .inl ⟨u, (step_run (hturn.trans hport)).trans hexec⟩
      · exact .inr ⟨step_stop (hturn.trans hport), bytes, moves, rfl, hne, htruncated⟩

/-! ### A GIVE_UP of PARSE_DISPATCH (43_framer.md R164, 60_exceptions.md R213, R216) -/

/-- On a GIVE_UP there is nothing to dispatch: PARSE_DISPATCH responds class NONE where PARSE stands (R164). -/
theorem afterDispatch_giveUp {s : State} (q : Byte) (h : (parseBody s).1 = .giveUp) :
    afterDispatch q s = (parseBody s).2.respond [0x00#8, 0x00#8] :=
  afterDispatch_noMessage (by rw [h]; rfl)

/-- Settles O53, by induction on the ticks: the turn that times out gave up, and the turns before it went on. -/
theorem timeoutKeepsTheLateReply : Obligations.TimeoutKeepsTheLateReply := by
  intro hp q deadlineAt ticks
  induction ticks with
  | nil => intro now s t _ hrun; cases hrun
  | cons tick ticks ih =>
    intro now s t hs hrun
    have hs' := State.lineAppend_inv hs tick.arrived
    obtain ⟨r, hgiveUp, -, hturn⟩ | ⟨-, hturn⟩ | ⟨now', hturn⟩ := sendLoop_turn hp q deadlineAt now tick ticks s
    · cases hturn.symm.trans hrun
      refine ⟨afterDispatch_inv hs' q, ?_, [], ticks, tick, s, rfl, rfl, exec_parseDispatch q _, ?_⟩
      · rw [afterDispatch_giveUp q hgiveUp]; rfl
      · rw [afterDispatch_giveUp q hgiveUp, List.append_assoc]
        exact parseBody_giveUp hs' hgiveUp
    · cases hturn.symm.trans hrun
    · obtain ⟨ht, hresponse, earlier, later, last, s', rfl, hearlier, hexec, hkept⟩ :=
        ih now' _ t (afterDispatch_inv hs' q) ((hturn ticks).symm.trans hrun)
      exact ⟨ht, hresponse, tick :: earlier, later, last, s', rfl, (hturn earlier).trans hearlier, hexec, hkept⟩

/-! ### A reply that arrives in pieces (43_framer.md R154, R157, 60_exceptions.md R213) -/

/-- The byte framer waits for the rest of a transmit frame (R154, R157). -/
theorem frameBytes_partial_txFrame {p : Params} {c : Byte} {d u missing : List Byte}
    (hu : u ++ missing = txFrame c d) (hmissing : missing ≠ []) (hid : opId c ≤ p.maxCmd)
    (hmax : d.length ≤ p.maxData) (hbyte : d.length ≤ 255) : frameBytes p u = (.giveUp, 0) := by
  by_cases hshort : u.length < 4
  · exact frameBytes_short p u hshort
  match u, hshort with
  | [_], hshort => simp at hshort
  | c' :: n :: rest, hshort =>
    have hpos := List.length_pos_of_ne_nil hmissing
    have hlen := congrArg List.length hu
    obtain ⟨rfl, rfl, -⟩ : c' = c ∧ n = countByte d.length ∧ _ := by simpa [txFrame] using hu
    have hcount := countByte_toNat hbyte
    rw [txFrame_length] at hlen
    simp only [List.length_append, List.length_cons] at hlen hshort
    exact frameBytes_incomplete p _ _ rest (by omega) (Nat.not_lt.2 hid) (by omega) (by omega)

/-- With a transmit frame in front of the bytes seen and those to come, the byte framer waits, or takes the frame
off. -/
theorem frameBytes_txFrame_next {p : Params} {c : Byte} {d u future more : List Byte}
    (h : u ++ future = txFrame c d ++ more) (hid : opId c ≤ p.maxCmd) (hmax : d.length ≤ p.maxData)
    (hbyte : d.length ≤ 255) :
    frameBytes p u = (.giveUp, 0) ∨
      frameBytes p u = (.goodMsg (txPacket c d), (txFrame c d).length) ∧
        u.drop (txFrame c d).length ++ future = more := by
  have hwhole (later : List Byte) (hmore : later ++ future = more) :
      frameBytes p (txFrame c d ++ later) = (.goodMsg (txPacket c d), (txFrame c d).length) ∧
        (txFrame c d ++ later).drop (txFrame c d).length ++ future = more :=
    ⟨frameBytes_txFrame later hid hmax hbyte, by rw [List.drop_left, hmore]⟩
  obtain ⟨missing, hframe, hfuture⟩ | ⟨later, rfl, hmore⟩ := List.append_eq_append_iff.1 h
  · obtain rfl | hmissing := eq_or_ne missing []
    · rw [List.append_nil] at hframe
      subst hframe
      exact .inr (by simpa using hwhole [] hfuture)
    · exact .inl (frameBytes_partial_txFrame hframe.symm hmissing hid hmax hbyte)
  · exact .inr (hwhole later hmore.symm)

/-- The bytes the block has still to frame, oldest first: those unconsumed, those on the line, and those that the
rest of the ticks deliver. -/
def State.stream (s : State) (ticks : List Tick) : List Byte :=
  s.unconsumed ++ s.linePending ++ ticks.flatMap Tick.arrived

@[simp] theorem State.respond_stream (s : State) (fields : List Byte) (ticks : List Tick) :
    (s.respond fields).stream ticks = s.stream ticks := rfl

@[simp] theorem State.krPush_stream (s : State) (v : Byte) (ticks : List Tick) :
    (s.krPush v).stream ticks = s.stream ticks := by
  simp [State.stream]

/-- A delivery moves a tick's bytes onto the line (R32). -/
theorem State.lineAppend_stream (s : State) (tick : Tick) (ticks : List Tick) :
    (s.lineAppend tick.arrived).stream ticks = s.stream (tick :: ticks) := by
  simp [State.stream]

/-- A PARSE with a transmit frame next in the stream gives up and loses no byte, or frames it and consumes exactly
it. -/
theorem parseBody_txFrame_next {s : State} {c : Byte} {d more : List Byte} {ticks : List Tick} (hs : s.Inv)
    (hid : opId c ≤ s.params.maxCmd) (hmax : d.length ≤ s.params.maxData)
    (hstream : s.stream ticks = txFrame c d ++ more) :
    ((parseBody s).1 = .giveUp ∧ (parseBody s).2.stream ticks = txFrame c d ++ more) ∨
      ((parseBody s).1 = .goodMsg (txPacket c d) ∧ (parseBody s).2.stream ticks = more) := by
  have hbyte : d.length ≤ 255 := by have := hs.params; omega
  have hframes := parseBody_framesAs hs
  have hresult := hframes.result
  have hrest := hframes.unconsumed
  rw [State.rbFill_params] at hresult hrest
  rw [State.stream, ← State.rbFill_conserves hs s.params.fillMax, ← hframes.same.linePending,
    List.append_assoc] at hstream
  rw [State.stream, hresult, hrest, List.append_assoc]
  obtain hwait | ⟨hwhole, hbehind⟩ := frameBytes_txFrame_next hstream hid hmax hbyte
  · rw [hwait]; exact .inl ⟨rfl, hstream⟩
  · rw [hwhole]; exact .inr ⟨rfl, hbehind⟩

/-! ### A SEND that is acknowledged (60_exceptions.md R213) -/

section
variable {hp : HostParams} {q c : Byte} {deadlineAt now : Nat} {tick : Tick} {ticks : List Tick} {s t : State}
  {d more : List Byte}

theorem PacketClass.code_eq_ack_iff (cls : PacketClass) : cls.code = PacketClass.ack.code ↔ cls = .ack := by
  cases cls <;> decide

/-- Only a good packet is an acknowledgement (R162). -/
theorem code_of_classify_ack {r : ParseResult} (h : classify q r s = .ack) : r.code = resultGoodMsg := by
  cases r with
  | goodMsg p => rfl
  | giveUp | tryAgain => cases h

/-- What a turn of mode WAIT does before SEND returns Acknowledged: it is the last one on class ACK, and else the loop
goes on where PARSE_DISPATCH left the block. -/
theorem sendLoop_acknowledged (hmode : hp.mode = .wait)
    (hrun : sendLoop hp q deadlineAt (tick :: ticks) now s = .returned .acknowledged t) :
    (classify q (parseBody (s.lineAppend tick.arrived)).1 (parseBody (s.lineAppend tick.arrived)).2 = .ack ∧
      t = afterDispatch q (s.lineAppend tick.arrived)) ∨
    (classify q (parseBody (s.lineAppend tick.arrived)).1 (parseBody (s.lineAppend tick.arrived)).2 ≠ .ack ∧
      ∃ now', sendLoop hp q deadlineAt ticks now' (afterDispatch q (s.lineAppend tick.arrived)) =
        .returned .acknowledged t) := by
  have hresponse := afterDispatch_response q (s.lineAppend tick.arrived)
  simp only [sendLoop, exec_parseDispatch, hmode, hresponse, List.getD_cons_succ, List.getD_cons_zero,
    PacketClass.code_eq_ack_iff, and_true] at hrun
  split at hrun
  · next hgiveUp =>
    split at hrun
    · cases hrun
    · exact .inr ⟨fun hack => absurd (hgiveUp.symm.trans (code_of_classify_ack hack)) (by decide), _, hrun⟩
  · split at hrun
    · next hack => cases hrun; exact .inl ⟨hack.2, rfl⟩
    · next hnot => exact .inr ⟨fun hack => hnot ⟨code_of_classify_ack hack, hack⟩, _, hrun⟩

/-- One turn of an acknowledged SEND with a transmit frame next in its stream: the frame is not complete, and the loop
goes on with the same stream and the same keys, or PARSE frames it. -/
theorem sendLoop_txFrame_next (hs : s.Inv) (hmode : hp.mode = .wait) (hid : opId c ≤ s.params.maxCmd)
    (hmax : d.length ≤ s.params.maxData) (hstream : s.stream (tick :: ticks) = txFrame c d ++ more)
    (hrun : sendLoop hp q deadlineAt (tick :: ticks) now s = .returned .acknowledged t) :
    ((afterDispatch q (s.lineAppend tick.arrived)).stream ticks = txFrame c d ++ more ∧
      (afterDispatch q (s.lineAppend tick.arrived)).keys = s.keys ∧
      ∃ now', sendLoop hp q deadlineAt ticks now' (afterDispatch q (s.lineAppend tick.arrived)) =
        .returned .acknowledged t) ∨
    ((parseBody (s.lineAppend tick.arrived)).1 = .goodMsg (txPacket c d) ∧
      (parseBody (s.lineAppend tick.arrived)).2.stream ticks = more) := by
  obtain ⟨hgiveUp, hkept⟩ | hframed := parseBody_txFrame_next (State.lineAppend_inv hs tick.arrived) hid hmax
    ((s.lineAppend_stream tick ticks).trans hstream)
  · refine .inl ⟨?_, ?_, ?_⟩
    · rw [afterDispatch_giveUp q hgiveUp, State.respond_stream, hkept]
    · rw [afterDispatch_giveUp q hgiveUp, State.respond_keys, parseBody_keys]; rfl
    · obtain ⟨hack, -⟩ | ⟨-, hnext⟩ := sendLoop_acknowledged hmode hrun
      · rw [hgiveUp] at hack; cases hack
      · exact hnext
  · exact .inr hframed

/-- PARSE_DISPATCH keeps the parameters (R36). -/
theorem afterDispatch_params (q : Byte) (s : State) : (afterDispatch q s).params = s.params :=
  exec_keeps_params (exec_parseDispatch q s)

/-- With the awaited acknowledgement next in the stream, an acknowledged SEND leaves the queued keys as they were. -/
theorem sendLoop_ack_next (hs : s.Inv) (hmode : hp.mode = .wait) (hq : q.toNat ≤ s.params.maxCmd)
    (hmax : d.length ≤ s.params.maxData) (hstream : s.stream ticks = txFrame (ackOf q) d)
    (hrun : sendLoop hp q deadlineAt ticks now s = .returned .acknowledged t) : t.Inv ∧ t.keys = s.keys := by
  induction ticks generalizing now s with
  | nil => cases hrun
  | cons tick ticks ih =>
    have hs' := State.lineAppend_inv hs tick.arrived
    have hq' : q.toNat ≤ 0x3F := by have := hs.params; omega
    have hid : opId (ackOf q) ≤ s.params.maxCmd := by rw [opId_eq_mod, ackOf_toNat_of_request hq']; omega
    obtain ⟨hstream', hkeys, now', hnext⟩ | ⟨hresult, -⟩ :=
      sendLoop_txFrame_next (more := []) hs hmode hid hmax (by rw [hstream, List.append_nil]) hrun
    · rw [List.append_nil] at hstream'
      rw [← hkeys]
      have hparams := afterDispatch_params q (s.lineAppend tick.arrived)
      exact ih (afterDispatch_inv hs' q) (hparams ▸ hq) (hparams ▸ hmax) hstream' hnext
    · obtain ⟨hdispatch, hclass⟩ := dispatch_ack (q := q) (p := txPacket (ackOf q) d)
        (s := (parseBody (s.lineAppend tick.arrived)).2) (ackOf_ne_keyEventCmd q)
        ((isExpectedAck_of_lt (by omega) _).2 rfl)
      obtain ⟨-, rfl⟩ | ⟨hnot, -⟩ := sendLoop_acknowledged hmode hrun
      · refine ⟨afterDispatch_inv hs' q, ?_⟩
        rw [afterDispatch_goodMsg hresult ⟨hdispatch, hclass⟩, State.respond_keys, parseBody_keys]
        rfl
      · exact absurd (hresult ▸ hclass) hnot

/-- With a key event of code `v` in front of the awaited acknowledgement and an empty ring, the turn that frames the
event queues `v`, and SEND is acknowledged by a later one (R215). -/
theorem sendLoop_keyEvent_next {v : Byte} (hs : s.Inv) (hmode : hp.mode = .wait) (hempty : s.keys = [])
    (hdata : 1 ≤ s.params.maxData) (hq : q.toNat ≤ s.params.maxCmd) (hmax : d.length ≤ s.params.maxData)
    (hstream : s.stream ticks = txFrame keyEventCmd [v] ++ txFrame (ackOf q) d)
    (hrun : sendLoop hp q deadlineAt ticks now s = .returned .acknowledged t) : t.Inv ∧ t.keys = [v] := by
  induction ticks generalizing now s with
  | nil => cases hrun
  | cons tick ticks ih =>
    have hs' := State.lineAppend_inv hs tick.arrived
    have hparams := afterDispatch_params q (s.lineAppend tick.arrived)
    obtain ⟨hstream', hkeys, now', hnext⟩ | ⟨hresult, hrest⟩ :=
      sendLoop_txFrame_next (d := [v]) hs hmode (Nat.zero_le _) hdata hstream hrun
    · exact ih (afterDispatch_inv hs' q) (hkeys.trans hempty) (hparams ▸ hdata) (hparams ▸ hq) (hparams ▸ hmax)
        hstream' hnext
    · have hbody := parseBody_inv hs'
      have hnone : (parseBody (s.lineAppend tick.arrived)).2.keys = [] := (parseBody_keys _).trans hempty
      have hroom : (parseBody (s.lineAppend tick.arrived)).2.krFull = false := by
        rw [Bool.eq_false_iff, ne_eq, State.krFull_iff hbody, ← State.keys_length, hnone, List.length_nil]
        have := hbody.params
        omega
      obtain ⟨-, -, hpushed⟩ := State.krPush_spec hbody v hroom
      obtain ⟨-, hclass⟩ := dispatch_keyPushed (q := q) (p := txPacket keyEventCmd [v]) rfl rfl hroom
      have hafter := afterDispatch_goodMsg (q := q)
        (u := (parseBody (s.lineAppend tick.arrived)).2.krPush v) hresult ⟨rfl, hclass⟩
      have hqueued : (afterDispatch q (s.lineAppend tick.arrived)).keys = [v] := by
        rw [hafter, State.respond_keys, hpushed, hnone, List.nil_append]
      have hack : (afterDispatch q (s.lineAppend tick.arrived)).stream ticks = txFrame (ackOf q) d := by
        rw [hafter, State.respond_stream, State.krPush_stream, hrest]
      obtain ⟨hclass', -⟩ | ⟨-, now', hnext⟩ := sendLoop_acknowledged hmode hrun
      · rw [hresult, hclass] at hclass'; cases hclass'
      · rw [← hqueued]
        exact sendLoop_ack_next (afterDispatch_inv hs' q) hmode (hparams ▸ hq) (hparams ▸ hmax) hack hnext

/-- A pop responds the oldest code, or the sentinel, and leaves the others queued (R142). -/
theorem responses_krPop_cons (hs : s.Inv) (is : List Instr) :
    ∃ u : State, u.Inv ∧ u.keys = s.keys.tail ∧
      responses (.krPop :: is) s = [0x00#8, s.keys.headD sentinel] :: responses is u := by
  have hpop : exec .krPop s = .next (s.krPop.respond [s.krPopValue]) := rfl
  obtain ⟨-, -, hkeys, hvalue⟩ := State.krPop_spec hs
  exact ⟨_, exec_inv hs hpop, hkeys, by rw [responses_cons hpop, State.respond_response, hvalue]; rfl⟩

end

/-- Settles O54: SEND queues the key event's code and then meets the acknowledgement; the first pop takes the code and
the second finds the ring empty. -/
theorem keyEventSiphoning : Obligations.KeyEventSiphoning := by
  intro hp q v d deadlineAt ticks now s t hs hmode hbuffer hline hring hdata hmax hq hreply hrun
  have hnone : s.unconsumed = [] := by
    rw [← List.length_eq_zero_iff, State.unconsumed_length, hs.rbAvail_eq_zero, hbuffer]
  have hstream : s.stream ticks = txFrame keyEventCmd [v] ++ txFrame (ackOf q) d := by
    rw [State.stream, hnone, hline]
    exact hreply
  obtain ⟨ht, hkeys⟩ :=
    sendLoop_keyEvent_next hs hmode (State.keys_eq_nil hring) hdata hq hmax hstream hrun
  obtain ⟨u, hu, hpopped, hfirst⟩ := responses_krPop_cons ht [.krPop]
  obtain ⟨_, -, -, hsecond⟩ := responses_krPop_cons hu []
  refine ⟨hkeys, ?_⟩
  rw [hfirst, hsecond, hpopped, hkeys]
  rfl

end Sys2Proof.Machine

namespace Sys2Proof.Machine

/-! ### The host's two resets (70_reset_and_hazards.md R241) -/

/-- The state the two resets leave: R111's assignment, then R140's. -/
theorem runOps_hostInit (s : State) : runOps hostInit s =
    .next { s with rbHead := 0, rbTail := 0, rbPeek := 0, krHead := 0, krTail := 0, response := [0x00#8] } := by
  obtain ⟨_, hrb, rfl, -⟩ := rbResetEmptiesTheBuffer s
  rw [hostInit, runOps_cons hrb, runOps_cons (krResetEmptiesTheRing _), runOps]

/-- Settles O52: each field is read off the state the two resets leave. -/
theorem hostInitEmptiesBothUnits : Obligations.HostInitEmptiesBothUnits := fun s =>
  ⟨_, runOps_hostInit s, rfl, rfl, rfl, rfl, rfl, rfl, rfl, rfl, rfl⟩

end Sys2Proof.Machine
